-- ==== Sys2Proof/Word.lean ====
section
/-! DEFINITION. The two word types of the machine: 00_scope.md R7 fixes 8-bit registers and data bus, and 16-bit register
pairs, index registers, SP, PC, MEMPTR and addresses. -/

namespace Sys2Proof

/-- An 8-bit register or a byte of memory (R7). -/
abbrev Byte := BitVec 8

/-- A 16-bit register, a memory address or a port address (R7). -/
abbrev Word := BitVec 16

end Sys2Proof
end

