-- ==== Sys2Proof/Machine/Fields.lean ====
section
/-! DEFINITION. Bit fields and byte order: the fields of an opcode byte (30_encoding.md R111), the two halves of a word
(00_scope.md R9), the sign extension of a displacement (R10), and which opcodes the ED and DD/FD tables leave unassigned
(R152, R153). -/

namespace Sys2Proof

/-- The high byte of a word: `hi(v) = v[15:8]` (R9). -/
def hi8 (v : Word) : Byte := v.extractLsb' 8 8

/-- The low byte of a word: `lo(v) = v[7:0]` (R9). -/
def lo8 (v : Word) : Byte := v.extractLsb' 0 8

/-- The word `hi : lo` (R9). -/
def pair (hi lo : Byte) : Word := hi ++ lo

/-- `sext_16(d)`: a displacement or relative offset read as two's complement (R10). -/
def sext16 (d : Byte) : Word := d.signExtend 16

/-- Field `x = op[7:6]` (R111). -/
def fieldX (op : Byte) : BitVec 2 := op.extractLsb' 6 2

/-- Field `y = op[5:3]` (R111). -/
def fieldY (op : Byte) : BitVec 3 := op.extractLsb' 3 3

/-- Field `z = op[2:0]` (R111). -/
def fieldZ (op : Byte) : BitVec 3 := op.extractLsb' 0 3

/-- Field `p = op[5:4]` (R111). -/
def fieldP (op : Byte) : BitVec 2 := op.extractLsb' 4 2

/-- Field `q = op[3]` (R111). -/
def fieldQ (op : Byte) : Bool := op.getLsbD 3

/-- The ED opcodes with no assigned operation: 00-3F, 80-9F, A4-A7, AC-AF, B4-B7, BC-BF, C0-FF, 77, 7F (R152). -/
def edUnassigned (op : Byte) : Bool :=
  let n := op.toNat
  n ≤ 0x3F || (0x80 ≤ n && n ≤ 0x9F) || (0xA4 ≤ n && n ≤ 0xA7) || (0xAC ≤ n && n ≤ 0xAF) || (0xB4 ≤ n && n ≤ 0xB7) ||
    (0xBC ≤ n && n ≤ 0xBF) || 0xC0 ≤ n || n = 0x77 || n = 0x7F

/-- The 85 cells of the DD/FD map that hold an instruction, row by row of the map (R153). -/
def indexCells : List Nat :=
  [0x09, 0x19] ++
  [0x21, 0x22, 0x23, 0x24, 0x25, 0x26, 0x29, 0x2A, 0x2B, 0x2C, 0x2D, 0x2E] ++
  [0x34, 0x35, 0x36, 0x39] ++
  [0x44, 0x45, 0x46, 0x4C, 0x4D, 0x4E] ++
  [0x54, 0x55, 0x56, 0x5C, 0x5D, 0x5E] ++
  [0x60, 0x61, 0x62, 0x63, 0x64, 0x65, 0x66, 0x67, 0x68, 0x69, 0x6A, 0x6B, 0x6C, 0x6D, 0x6E, 0x6F] ++
  [0x70, 0x71, 0x72, 0x73, 0x74, 0x75, 0x77, 0x7C, 0x7D, 0x7E] ++
  [0x84, 0x85, 0x86, 0x8C, 0x8D, 0x8E] ++
  [0x94, 0x95, 0x96, 0x9C, 0x9D, 0x9E] ++
  [0xA4, 0xA5, 0xA6, 0xAC, 0xAD, 0xAE] ++
  [0xB4, 0xB5, 0xB6, 0xBC, 0xBD, 0xBE] ++
  [0xE1, 0xE3, 0xE5, 0xE9] ++
  [0xF9]

/-- The four cells of the DD/FD map that hold a prefix byte (R153). -/
def prefixCells : List Nat := [0xCB, 0xDD, 0xED, 0xFD]

/-- A cell marked ↩ in the DD/FD map: the byte runs as the main-table entry of the same value (R137, R153). -/
def isFallback (op : Byte) : Bool :=
  !(indexCells.contains op.toNat) && !(prefixCells.contains op.toNat)

end Sys2Proof
end

