-- ==== Sys2Proof/Syntax.lean ====
section
/-! DEFINITION. The abstract syntax: the operand types of 30_encoding.md R112 and R113, and the one inductive `Instr`, one
constructor per mnemonic of spec/opcode_table.json. A field named `dup` holds the bits of an opcode that only choose among
identical table entries (log entry 18). -/

namespace Sys2Proof

/-- The 8-bit registers of `reg8[k]`, k ≠ 6 (R112). -/
inductive Reg8 where
  | b | c | d | e | h | l | a
  deriving DecidableEq, Repr

/-- The pairs of `rp[p]` (R112). -/
inductive Rp where
  | bc | de | hl | sp
  deriving DecidableEq, Repr

/-- The pairs of `rp2[p]`, for PUSH and POP (R112). -/
inductive Rp2 where
  | bc | de | hl | af
  deriving DecidableEq, Repr

/-- The pairs of `rp[p]` under a DD or FD prefix: XY stands in the place of HL (R112, R414). -/
inductive RpXy where
  | bc | de | xy | sp
  deriving DecidableEq, Repr

/-- The condition codes of `cc[k]` (R112; 10_state.md R31). -/
inductive Cond where
  | nz | z | nc | c | po | pe | p | m
  deriving DecidableEq, Repr

/-- The index register a DD (IX) or FD (IY) prefix selects (R136). -/
inductive IndexReg where
  | ix | iy
  deriving DecidableEq, Repr

/-- XYH or XYL (R112). -/
inductive Half where
  | high | low
  deriving DecidableEq, Repr

/-- The source registers of `LD XYH,r'` and `LD XYL,r'`: XYH and XYL stand in the places of H and L (40_load8.md R219). -/
inductive RegXy where
  | b | c | d | e | xyh | xyl | a
  deriving DecidableEq, Repr

/-- The opcode-prefix state, a closed enumeration (10_state.md R40; R139). -/
inductive Pfx where
  | noPfx | cb | dd | ed | fd
  deriving DecidableEq, Repr

/-- The instructions, in the order of spec/opcode_table.json. -/
inductive Instr where
  -- main table (30_encoding.md R150)
  /-- `NOP` (R385). -/
  | nop
  /-- `EX AF,AF'` (R270). -/
  | exAfAf
  /-- `DJNZ e` (R506). -/
  | djnz (e : Byte)
  /-- `JR e` (R502). -/
  | jr (e : Byte)
  /-- `JR cc,e` (R503). -/
  | jrCc (cc : Cond) (e : Byte)
  /-- `LD rp,nn` (R240). -/
  | ldRpNn (rp : Rp) (nn : Word)
  /-- `ADD HL,rp` (R413). -/
  | addHlRp (rp : Rp)
  /-- `LD (BC),A` (R211). -/
  | ldAtBcA
  /-- `LD (DE),A` (R212). -/
  | ldAtDeA
  /-- `LD (nn),HL` (R245). -/
  | ldAtNnHl (nn : Word)
  /-- `LD (nn),A` (R213). -/
  | ldAtNnA (nn : Word)
  /-- `LD A,(BC)` (R208). -/
  | ldAAtBc
  /-- `LD A,(DE)` (R209). -/
  | ldAAtDe
  /-- `LD HL,(nn)` (R242). -/
  | ldHlAtNn (nn : Word)
  /-- `LD A,(nn)` (R210). -/
  | ldAAtNn (nn : Word)
  /-- `INC rp` (R417). -/
  | incRp (rp : Rp)
  /-- `DEC rp` (R419). -/
  | decRp (rp : Rp)
  /-- `INC r` (R360). -/
  | incR (r : Reg8)
  /-- `INC (HL)` (R361). -/
  | incAtHl
  /-- `DEC r` (R364). -/
  | decR (r : Reg8)
  /-- `DEC (HL)` (R365). -/
  | decAtHl
  /-- `LD r,n` (R201). -/
  | ldRN (r : Reg8) (n : Byte)
  /-- `LD (HL),n` (R206). -/
  | ldAtHlN (n : Byte)
  /-- `RLCA` (R430). -/
  | rlca
  /-- `RRCA` (R431). -/
  | rrca
  /-- `RLA` (R432). -/
  | rla
  /-- `RRA` (R433). -/
  | rra
  /-- `DAA` (R380). -/
  | daa
  /-- `CPL` (R381). -/
  | cpl
  /-- `SCF` (R384). -/
  | scf
  /-- `CCF` (R383). -/
  | ccf
  /-- `HALT` (R386). -/
  | halt
  /-- `LD r,(HL)` (R202). -/
  | ldRAtHl (r : Reg8)
  /-- `LD (HL),r` (R204). -/
  | ldAtHlR (r : Reg8)
  /-- `LD r,r'` (R200). -/
  | ldRR (dst : Reg8) (src : Reg8)
  /-- `ADD A,r` (R320). -/
  | addAR (r : Reg8)
  /-- `ADD A,(HL)` (R322). -/
  | addAAtHl
  /-- `ADD A,n` (R321). -/
  | addAN (n : Byte)
  /-- `ADC A,r` (R325). -/
  | adcAR (r : Reg8)
  /-- `ADC A,(HL)` (R327). -/
  | adcAAtHl
  /-- `ADC A,n` (R326). -/
  | adcAN (n : Byte)
  /-- `SUB r` (R330). -/
  | subR (r : Reg8)
  /-- `SUB (HL)` (R332). -/
  | subAtHl
  /-- `SUB n` (R331). -/
  | subN (n : Byte)
  /-- `SBC A,r` (R335). -/
  | sbcAR (r : Reg8)
  /-- `SBC A,(HL)` (R337). -/
  | sbcAAtHl
  /-- `SBC A,n` (R336). -/
  | sbcAN (n : Byte)
  /-- `AND r` (R340). -/
  | andR (r : Reg8)
  /-- `AND (HL)` (R342). -/
  | andAtHl
  /-- `AND n` (R341). -/
  | andN (n : Byte)
  /-- `XOR r` (R345). -/
  | xorR (r : Reg8)
  /-- `XOR (HL)` (R347). -/
  | xorAtHl
  /-- `XOR n` (R346). -/
  | xorN (n : Byte)
  /-- `OR r` (R350). -/
  | orR (r : Reg8)
  /-- `OR (HL)` (R352). -/
  | orAtHl
  /-- `OR n` (R351). -/
  | orN (n : Byte)
  /-- `CP r` (R355). -/
  | cpR (r : Reg8)
  /-- `CP (HL)` (R357). -/
  | cpAtHl
  /-- `CP n` (R356). -/
  | cpN (n : Byte)
  /-- `RET cc` (R510). -/
  | retCc (cc : Cond)
  /-- `POP rp2` (R252). -/
  | popRp2 (rp : Rp2)
  /-- `RET` (R509). -/
  | ret
  /-- `EXX` (R271). -/
  | exx
  /-- `JP (HL)` (R504). -/
  | jpHl
  /-- `LD SP,HL` (R248). -/
  | ldSpHl
  /-- `EX (SP),HL` (R273). -/
  | exAtSpHl
  /-- `EX DE,HL` (R272). -/
  | exDeHl
  /-- `DI` (R387). -/
  | di
  /-- `EI` (R388). -/
  | ei
  /-- `JP cc,nn` (R501). -/
  | jpCcNn (cc : Cond) (nn : Word)
  /-- `JP nn` (R500). -/
  | jpNn (nn : Word)
  /-- `OUT (n),A` (R533). -/
  | outAtNA (n : Byte)
  /-- `IN A,(n)` (R530). -/
  | inAAtN (n : Byte)
  /-- `CALL cc,nn` (R508). -/
  | callCcNn (cc : Cond) (nn : Word)
  /-- `PUSH rp2` (R250). -/
  | pushRp2 (rp : Rp2)
  /-- `CALL nn` (R507). -/
  | callNn (nn : Word)
  /-- `RST p` (R513). -/
  | rst (p : BitVec 3)
  /-- `prefix CB` (R134). -/
  | prefixCb
  /-- `prefix ED` (R135). -/
  | prefixEd
  /-- `prefix DD / FD` (R136). -/
  | prefixXy (xy : IndexReg)
  -- CB table (30_encoding.md R151)
  /-- `RLC r` (R440). -/
  | rlcR (r : Reg8)
  /-- `RLC (HL)` (R441). -/
  | rlcAtHl
  /-- `RRC r` (R444). -/
  | rrcR (r : Reg8)
  /-- `RRC (HL)` (R445). -/
  | rrcAtHl
  /-- `RL r` (R448). -/
  | rlR (r : Reg8)
  /-- `RL (HL)` (R449). -/
  | rlAtHl
  /-- `RR r` (R452). -/
  | rrR (r : Reg8)
  /-- `RR (HL)` (R453). -/
  | rrAtHl
  /-- `SLA r` (R456). -/
  | slaR (r : Reg8)
  /-- `SLA (HL)` (R457). -/
  | slaAtHl
  /-- `SRA r` (R460). -/
  | sraR (r : Reg8)
  /-- `SRA (HL)` (R461). -/
  | sraAtHl
  /-- `SLL r` (R464). -/
  | sllR (r : Reg8)
  /-- `SLL (HL)` (R465). -/
  | sllAtHl
  /-- `SRL r` (R468). -/
  | srlR (r : Reg8)
  /-- `SRL (HL)` (R469). -/
  | srlAtHl
  /-- `BIT b,r` (R480). -/
  | bitR (b : BitVec 3) (r : Reg8)
  /-- `BIT b,(HL)` (R481). -/
  | bitAtHl (b : BitVec 3)
  /-- `RES b,r` (R483). -/
  | resR (b : BitVec 3) (r : Reg8)
  /-- `RES b,(HL)` (R484). -/
  | resAtHl (b : BitVec 3)
  /-- `SET b,r` (R487). -/
  | setR (b : BitVec 3) (r : Reg8)
  /-- `SET b,(HL)` (R488). -/
  | setAtHl (b : BitVec 3)
  -- ED table (30_encoding.md R152)
  /-- `IN r,(C)` (R531). -/
  | inRC (r : Reg8)
  /-- `IN (C)` (R532). -/
  | inC
  /-- `OUT (C),r` (R534). -/
  | outCR (r : Reg8)
  /-- `OUT (C),0` (R535). -/
  | outC0
  /-- `SBC HL,rp` (R416). -/
  | sbcHlRp (rp : Rp)
  /-- `ADC HL,rp` (R415). -/
  | adcHlRp (rp : Rp)
  /-- `LD (nn),rp` (R246). -/
  | ldAtNnRp (rp : Rp) (nn : Word)
  /-- `LD rp,(nn)` (R243). -/
  | ldRpAtNn (rp : Rp) (nn : Word)
  /-- `NEG` (R382). -/
  | neg (dup : BitVec 3)
  /-- `RETI` (R511). -/
  | reti
  /-- `RETN` (R512). -/
  | retn (dup : BitVec 3)
  /-- `IM 0` (R389). -/
  | im0 (dup : BitVec 2)
  /-- `IM 1` (R390). -/
  | im1 (dup : BitVec 1)
  /-- `IM 2` (R391). -/
  | im2 (dup : BitVec 1)
  /-- `LD I,A` (R216). -/
  | ldIA
  /-- `LD R,A` (R217). -/
  | ldRA
  /-- `LD A,I` (R214). -/
  | ldAI
  /-- `LD A,R` (R215). -/
  | ldAR
  /-- `RRD` (R473). -/
  | rrd
  /-- `RLD` (R472). -/
  | rld
  /-- `LDI` (R281). -/
  | ldi
  /-- `CPI` (R285). -/
  | cpi
  /-- `INI` (R289). -/
  | ini
  /-- `OUTI` (R293). -/
  | outi
  /-- `LDD` (R282). -/
  | ldd
  /-- `CPD` (R286). -/
  | cpd
  /-- `IND` (R290). -/
  | ind
  /-- `OUTD` (R294). -/
  | outd
  /-- `LDIR` (R283). -/
  | ldir
  /-- `CPIR` (R287). -/
  | cpir
  /-- `INIR` (R291). -/
  | inir
  /-- `OTIR` (R295). -/
  | otir
  /-- `LDDR` (R284). -/
  | lddr
  /-- `CPDR` (R288). -/
  | cpdr
  /-- `INDR` (R292). -/
  | indr
  /-- `OTDR` (R296). -/
  | otdr
  /-- `NOP (ED no-operation)` (R392). -/
  | nopEd (op : Byte)
  -- DD/FD table (30_encoding.md R153)
  /-- `ADD XY,rp` (R414). -/
  | addXyRp (xy : IndexReg) (rp : RpXy)
  /-- `LD XY,nn` (R241). -/
  | ldXyNn (xy : IndexReg) (nn : Word)
  /-- `LD (nn),XY` (R247). -/
  | ldAtNnXy (xy : IndexReg) (nn : Word)
  /-- `LD XY,(nn)` (R244). -/
  | ldXyAtNn (xy : IndexReg) (nn : Word)
  /-- `INC XY` (R418). -/
  | incXy (xy : IndexReg)
  /-- `DEC XY` (R420). -/
  | decXy (xy : IndexReg)
  /-- `INC XYH / INC XYL` (R363). -/
  | incXyHalf (xy : IndexReg) (half : Half)
  /-- `DEC XYH / DEC XYL` (R367). -/
  | decXyHalf (xy : IndexReg) (half : Half)
  /-- `LD XYH,n / LD XYL,n` (R220). -/
  | ldXyHalfN (xy : IndexReg) (half : Half) (n : Byte)
  /-- `INC (XY+d)` (R362). -/
  | incAtXyD (xy : IndexReg) (d : Byte)
  /-- `DEC (XY+d)` (R366). -/
  | decAtXyD (xy : IndexReg) (d : Byte)
  /-- `LD (XY+d),n` (R207). -/
  | ldAtXyDN (xy : IndexReg) (d : Byte) (n : Byte)
  /-- `LD r,(XY+d)` (R203). -/
  | ldRAtXyD (xy : IndexReg) (r : Reg8) (d : Byte)
  /-- `LD (XY+d),r` (R205). -/
  | ldAtXyDR (xy : IndexReg) (d : Byte) (r : Reg8)
  /-- `LD r,XYH / LD r,XYL` (R218). -/
  | ldRXyHalf (xy : IndexReg) (r : Reg8) (half : Half)
  /-- `LD XYH,r' / LD XYL,r'` (R219). -/
  | ldXyHalfR (xy : IndexReg) (half : Half) (src : RegXy)
  /-- `ADD A,(XY+d)` (R323). -/
  | addAAtXyD (xy : IndexReg) (d : Byte)
  /-- `ADD A,XYH / ADD A,XYL` (R324). -/
  | addAXyHalf (xy : IndexReg) (half : Half)
  /-- `ADC A,(XY+d)` (R328). -/
  | adcAAtXyD (xy : IndexReg) (d : Byte)
  /-- `ADC A,XYH / ADC A,XYL` (R329). -/
  | adcAXyHalf (xy : IndexReg) (half : Half)
  /-- `SUB (XY+d)` (R333). -/
  | subAtXyD (xy : IndexReg) (d : Byte)
  /-- `SUB XYH / SUB XYL` (R334). -/
  | subXyHalf (xy : IndexReg) (half : Half)
  /-- `SBC A,(XY+d)` (R338). -/
  | sbcAAtXyD (xy : IndexReg) (d : Byte)
  /-- `SBC A,XYH / SBC A,XYL` (R339). -/
  | sbcAXyHalf (xy : IndexReg) (half : Half)
  /-- `AND (XY+d)` (R343). -/
  | andAtXyD (xy : IndexReg) (d : Byte)
  /-- `AND XYH / AND XYL` (R344). -/
  | andXyHalf (xy : IndexReg) (half : Half)
  /-- `XOR (XY+d)` (R348). -/
  | xorAtXyD (xy : IndexReg) (d : Byte)
  /-- `XOR XYH / XOR XYL` (R349). -/
  | xorXyHalf (xy : IndexReg) (half : Half)
  /-- `OR (XY+d)` (R353). -/
  | orAtXyD (xy : IndexReg) (d : Byte)
  /-- `OR XYH / OR XYL` (R354). -/
  | orXyHalf (xy : IndexReg) (half : Half)
  /-- `CP (XY+d)` (R358). -/
  | cpAtXyD (xy : IndexReg) (d : Byte)
  /-- `CP XYH / CP XYL` (R359). -/
  | cpXyHalf (xy : IndexReg) (half : Half)
  /-- `POP XY` (R253). -/
  | popXy (xy : IndexReg)
  /-- `EX (SP),XY` (R274). -/
  | exAtSpXy (xy : IndexReg)
  /-- `PUSH XY` (R251). -/
  | pushXy (xy : IndexReg)
  /-- `JP (XY)` (R505). -/
  | jpXy (xy : IndexReg)
  /-- `LD SP,XY` (R249). -/
  | ldSpXy (xy : IndexReg)
  /-- `prefix chain (DD|FD followed by DD|FD)` (R140). -/
  | prefixChain (xy : IndexReg) (second : IndexReg)
  /-- `prefix ED after DD|FD (DD|FD discarded)` (R136). -/
  | prefixEdAfterXy (xy : IndexReg)
  /-- `prefix CB after DD|FD (enters the DD/FD CB d op form)` (R141). -/
  | prefixCbAfterXy (xy : IndexReg)
  /-- `DD/FD fallback (main-table instruction, prefix ignored)` (R137). -/
  | fallbackXy (xy : IndexReg) (op : Byte)
  -- DD/FD CB table (30_encoding.md R154)
  /-- `RLC (XY+d)` (R442). -/
  | rlcAtXyD (xy : IndexReg) (d : Byte)
  /-- `RLC (XY+d),r` (R443). -/
  | rlcAtXyDR (xy : IndexReg) (d : Byte) (r : Reg8)
  /-- `RRC (XY+d)` (R446). -/
  | rrcAtXyD (xy : IndexReg) (d : Byte)
  /-- `RRC (XY+d),r` (R447). -/
  | rrcAtXyDR (xy : IndexReg) (d : Byte) (r : Reg8)
  /-- `RL (XY+d)` (R450). -/
  | rlAtXyD (xy : IndexReg) (d : Byte)
  /-- `RL (XY+d),r` (R451). -/
  | rlAtXyDR (xy : IndexReg) (d : Byte) (r : Reg8)
  /-- `RR (XY+d)` (R454). -/
  | rrAtXyD (xy : IndexReg) (d : Byte)
  /-- `RR (XY+d),r` (R455). -/
  | rrAtXyDR (xy : IndexReg) (d : Byte) (r : Reg8)
  /-- `SLA (XY+d)` (R458). -/
  | slaAtXyD (xy : IndexReg) (d : Byte)
  /-- `SLA (XY+d),r` (R459). -/
  | slaAtXyDR (xy : IndexReg) (d : Byte) (r : Reg8)
  /-- `SRA (XY+d)` (R462). -/
  | sraAtXyD (xy : IndexReg) (d : Byte)
  /-- `SRA (XY+d),r` (R463). -/
  | sraAtXyDR (xy : IndexReg) (d : Byte) (r : Reg8)
  /-- `SLL (XY+d)` (R466). -/
  | sllAtXyD (xy : IndexReg) (d : Byte)
  /-- `SLL (XY+d),r` (R467). -/
  | sllAtXyDR (xy : IndexReg) (d : Byte) (r : Reg8)
  /-- `SRL (XY+d)` (R470). -/
  | srlAtXyD (xy : IndexReg) (d : Byte)
  /-- `SRL (XY+d),r` (R471). -/
  | srlAtXyDR (xy : IndexReg) (d : Byte) (r : Reg8)
  /-- `BIT b,(XY+d)` (R482). -/
  | bitAtXyD (xy : IndexReg) (d : Byte) (b : BitVec 3) (dup : BitVec 3)
  /-- `RES b,(XY+d)` (R485). -/
  | resAtXyD (xy : IndexReg) (d : Byte) (b : BitVec 3)
  /-- `RES b,(XY+d),r` (R486). -/
  | resAtXyDR (xy : IndexReg) (d : Byte) (b : BitVec 3) (r : Reg8)
  /-- `SET b,(XY+d)` (R489). -/
  | setAtXyD (xy : IndexReg) (d : Byte) (b : BitVec 3)
  /-- `SET b,(XY+d),r` (R490). -/
  | setAtXyDR (xy : IndexReg) (d : Byte) (b : BitVec 3) (r : Reg8)
  deriving DecidableEq, Repr

end Sys2Proof
end

