-- ==== Sys2Proof/WellFormed.lean ====
section
/-! DEFINITION. Which terms of `Instr` are instructions: an operand field of opcode_table.json that excludes a value, and
the two rows that range over the unassigned cells of a table (30_encoding.md R152, R153). -/

namespace Sys2Proof

/-- JR has the four conditions NZ, Z, NC, C only (48_jump_call_return.md R503). -/
def Cond.isJr (cc : Cond) : Bool :=
  match cc with
  | .nz | .z | .nc | .c => true
  | .po | .pe | .p | .m => false

/-- `LD r,XYH` and `LD r,XYL` have no form with r = H or r = L (40_load8.md R218). -/
def Reg8.isNotHL (r : Reg8) : Bool :=
  match r with
  | .h | .l => false
  | .b | .c | .d | .e | .a => true

/-- The check: a term that passes has an encoding of its own. Rows of opcode_table.json without an excluded value need none. -/
def Instr.wf (i : Instr) : Bool :=
  match i with
  | .jrCc cc _ => cc.isJr
  | .ldRXyHalf _ r _ => r.isNotHL
  | .retn dup => dup != 1#3
  | .nopEd op => edUnassigned op
  | .fallbackXy _ op => isFallback op
  | _ => true

end Sys2Proof
end

