-- ==== Sys2Proof/Decode.lean ====
section
/-! DEFINITION. The decoder and the encoder, both from the opcode maps of 30_encoding.md R150 to R154.

The five tables are total (R155): every opcode byte of every table is an instruction, so the table decoders answer an
`Instr` and only a byte sequence that ends before its instruction is rejected, by name (`DecodeError.truncated`). -/

namespace Sys2Proof

/-! ## Register, pair and condition fields (R112) -/

/-- `reg8[k]`: none where k = 6, which is the memory operand and never a register (R112). -/
def reg8OfField (k : BitVec 3) : Option Reg8 :=
  match k with
  | 0#3 => some .b | 1#3 => some .c | 2#3 => some .d | 3#3 => some .e
  | 4#3 => some .h | 5#3 => some .l | 6#3 => none | _ => some .a

/-- The field of a register (R112). -/
def Reg8.field (r : Reg8) : BitVec 3 :=
  match r with
  | .b => 0#3 | .c => 1#3 | .d => 2#3 | .e => 3#3 | .h => 4#3 | .l => 5#3 | .a => 7#3

/-- `rp[p]` (R112). -/
def rpOfField (p : BitVec 2) : Rp :=
  match p with
  | 0#2 => .bc | 1#2 => .de | 2#2 => .hl | _ => .sp

/-- The field of a pair (R112). -/
def Rp.field (r : Rp) : BitVec 2 :=
  match r with
  | .bc => 0#2 | .de => 1#2 | .hl => 2#2 | .sp => 3#2

/-- `rp2[p]` (R112). -/
def rp2OfField (p : BitVec 2) : Rp2 :=
  match p with
  | 0#2 => .bc | 1#2 => .de | 2#2 => .hl | _ => .af

/-- The field of a PUSH or POP pair (R112). -/
def Rp2.field (r : Rp2) : BitVec 2 :=
  match r with
  | .bc => 0#2 | .de => 1#2 | .hl => 2#2 | .af => 3#2

/-- `rp[p]` under DD or FD: XY in the place of HL (R112). -/
def rpXyOfField (p : BitVec 2) : RpXy :=
  match p with
  | 0#2 => .bc | 1#2 => .de | 2#2 => .xy | _ => .sp

/-- The field of a pair of `ADD XY,rp` (R112). -/
def RpXy.field (r : RpXy) : BitVec 2 :=
  match r with
  | .bc => 0#2 | .de => 1#2 | .xy => 2#2 | .sp => 3#2

/-- `cc[k]` (R112). -/
def condOfField (k : BitVec 3) : Cond :=
  match k with
  | 0#3 => .nz | 1#3 => .z | 2#3 => .nc | 3#3 => .c | 4#3 => .po | 5#3 => .pe | 6#3 => .p | _ => .m

/-- The field of a condition (R112). -/
def Cond.field (cc : Cond) : BitVec 3 :=
  match cc with
  | .nz => 0#3 | .z => 1#3 | .nc => 2#3 | .c => 3#3 | .po => 4#3 | .pe => 5#3 | .p => 6#3 | .m => 7#3

/-- XYH or XYL, from the low bit of the field that selects it: 4 is XYH, 5 is XYL (R112). -/
def halfOfBit (bit : Bool) : Half := if bit then .low else .high

/-- The field 4 of XYH, 5 of XYL (R112). -/
def Half.field (h : Half) : BitVec 3 :=
  match h with
  | .high => 4#3 | .low => 5#3

/-- The source register of `LD XYH,r'` and `LD XYL,r'`; none where k = 6 (40_load8.md R219). -/
def regXyOfField (k : BitVec 3) : Option RegXy :=
  match k with
  | 0#3 => some .b | 1#3 => some .c | 2#3 => some .d | 3#3 => some .e
  | 4#3 => some .xyh | 5#3 => some .xyl | 6#3 => none | _ => some .a

/-- The field of such a source register (R219). -/
def RegXy.field (r : RegXy) : BitVec 3 :=
  match r with
  | .b => 0#3 | .c => 1#3 | .d => 2#3 | .e => 3#3 | .xyh => 4#3 | .xyl => 5#3 | .a => 7#3

/-- The prefix byte of an index register: DD for IX, FD for IY (R110). -/
def IndexReg.prefixByte (xy : IndexReg) : Byte :=
  match xy with
  | .ix => 0xDD#8 | .iy => 0xFD#8

/-- The prefix state a DD or FD byte leaves (R136). -/
def IndexReg.pfx (xy : IndexReg) : Pfx :=
  match xy with
  | .ix => .dd | .iy => .fd

/-- The prefix state a byte selects in state NONE; none where the byte is no prefix (R133). -/
def pfxOfByte (op : Byte) : Option Pfx :=
  match op with
  | 0xCB#8 => some .cb | 0xDD#8 => some .dd | 0xED#8 => some .ed | 0xFD#8 => some .fd | _ => none

/-! ## The operation a field selects (R112) -/

/-- The ALU operation of field y on a register (R150 rows 8x to Bx). -/
def aluReg (y : BitVec 3) (r : Reg8) : Instr :=
  match y with
  | 0#3 => .addAR r | 1#3 => .adcAR r | 2#3 => .subR r | 3#3 => .sbcAR r
  | 4#3 => .andR r | 5#3 => .xorR r | 6#3 => .orR r | _ => .cpR r

/-- The ALU operation of field y on (HL). -/
def aluAtHl (y : BitVec 3) : Instr :=
  match y with
  | 0#3 => .addAAtHl | 1#3 => .adcAAtHl | 2#3 => .subAtHl | 3#3 => .sbcAAtHl
  | 4#3 => .andAtHl | 5#3 => .xorAtHl | 6#3 => .orAtHl | _ => .cpAtHl

/-- The ALU operation of field y on an immediate byte (x = 3, z = 6). -/
def aluImm (y : BitVec 3) (n : Byte) : Instr :=
  match y with
  | 0#3 => .addAN n | 1#3 => .adcAN n | 2#3 => .subN n | 3#3 => .sbcAN n
  | 4#3 => .andN n | 5#3 => .xorN n | 6#3 => .orN n | _ => .cpN n

/-- The ALU operation of field y on (XY+d) (R153). -/
def aluAtXyD (y : BitVec 3) (xy : IndexReg) (d : Byte) : Instr :=
  match y with
  | 0#3 => .addAAtXyD xy d | 1#3 => .adcAAtXyD xy d | 2#3 => .subAtXyD xy d | 3#3 => .sbcAAtXyD xy d
  | 4#3 => .andAtXyD xy d | 5#3 => .xorAtXyD xy d | 6#3 => .orAtXyD xy d | _ => .cpAtXyD xy d

/-- The ALU operation of field y on XYH or XYL (R153). -/
def aluXyHalf (y : BitVec 3) (xy : IndexReg) (half : Half) : Instr :=
  match y with
  | 0#3 => .addAXyHalf xy half | 1#3 => .adcAXyHalf xy half | 2#3 => .subXyHalf xy half | 3#3 => .sbcAXyHalf xy half
  | 4#3 => .andXyHalf xy half | 5#3 => .xorXyHalf xy half | 6#3 => .orXyHalf xy half | _ => .cpXyHalf xy half

/-- The rotate or shift of field y on a register (R151). -/
def rotReg (y : BitVec 3) (r : Reg8) : Instr :=
  match y with
  | 0#3 => .rlcR r | 1#3 => .rrcR r | 2#3 => .rlR r | 3#3 => .rrR r
  | 4#3 => .slaR r | 5#3 => .sraR r | 6#3 => .sllR r | _ => .srlR r

/-- The rotate or shift of field y on (HL) (R151). -/
def rotAtHl (y : BitVec 3) : Instr :=
  match y with
  | 0#3 => .rlcAtHl | 1#3 => .rrcAtHl | 2#3 => .rlAtHl | 3#3 => .rrAtHl
  | 4#3 => .slaAtHl | 5#3 => .sraAtHl | 6#3 => .sllAtHl | _ => .srlAtHl

/-- The rotate or shift of field y on (XY+d) (R154). -/
def rotAtXyD (y : BitVec 3) (xy : IndexReg) (d : Byte) : Instr :=
  match y with
  | 0#3 => .rlcAtXyD xy d | 1#3 => .rrcAtXyD xy d | 2#3 => .rlAtXyD xy d | 3#3 => .rrAtXyD xy d
  | 4#3 => .slaAtXyD xy d | 5#3 => .sraAtXyD xy d | 6#3 => .sllAtXyD xy d | _ => .srlAtXyD xy d

/-- The rotate or shift of field y on (XY+d) with a copy to a register (R154). -/
def rotAtXyDR (y : BitVec 3) (xy : IndexReg) (d : Byte) (r : Reg8) : Instr :=
  match y with
  | 0#3 => .rlcAtXyDR xy d r | 1#3 => .rrcAtXyDR xy d r | 2#3 => .rlAtXyDR xy d r | 3#3 => .rrAtXyDR xy d r
  | 4#3 => .slaAtXyDR xy d r | 5#3 => .sraAtXyDR xy d r | 6#3 => .sllAtXyDR xy d r | _ => .srlAtXyDR xy d r

/-! ## The five tables -/

/-- Main table, x = 0 (R150 rows 0x to 3x); `o1`, `o2` are the two bytes after the opcode. -/
def decodeMain0 (op o1 o2 : Byte) : Instr :=
  match fieldZ op with
  | 0#3 =>
    match fieldY op with
    | 0#3 => .nop
    | 1#3 => .exAfAf
    | 2#3 => .djnz o1
    | 3#3 => .jr o1
    | 4#3 => .jrCc .nz o1
    | 5#3 => .jrCc .z o1
    | 6#3 => .jrCc .nc o1
    | _ => .jrCc .c o1
  | 1#3 => if fieldQ op then .addHlRp (rpOfField (fieldP op)) else .ldRpNn (rpOfField (fieldP op)) (pair o2 o1)
  | 2#3 =>
    match fieldY op with
    | 0#3 => .ldAtBcA
    | 1#3 => .ldAAtBc
    | 2#3 => .ldAtDeA
    | 3#3 => .ldAAtDe
    | 4#3 => .ldAtNnHl (pair o2 o1)
    | 5#3 => .ldHlAtNn (pair o2 o1)
    | 6#3 => .ldAtNnA (pair o2 o1)
    | _ => .ldAAtNn (pair o2 o1)
  | 3#3 => if fieldQ op then .decRp (rpOfField (fieldP op)) else .incRp (rpOfField (fieldP op))
  | 4#3 =>
    match reg8OfField (fieldY op) with
    | some r => .incR r
    | none => .incAtHl
  | 5#3 =>
    match reg8OfField (fieldY op) with
    | some r => .decR r
    | none => .decAtHl
  | 6#3 =>
    match reg8OfField (fieldY op) with
    | some r => .ldRN r o1
    | none => .ldAtHlN o1
  | _ =>
    match fieldY op with
    | 0#3 => .rlca
    | 1#3 => .rrca
    | 2#3 => .rla
    | 3#3 => .rra
    | 4#3 => .daa
    | 5#3 => .cpl
    | 6#3 => .scf
    | _ => .ccf

/-- Main table, x = 1: the register loads, and HALT where `LD (HL),(HL)` would be (R150). -/
def decodeMain1 (op : Byte) : Instr :=
  match reg8OfField (fieldY op), reg8OfField (fieldZ op) with
  | some dst, some src => .ldRR dst src
  | some dst, none => .ldRAtHl dst
  | none, some src => .ldAtHlR src
  | none, none => .halt

/-- Main table, x = 2: the ALU on a register or (HL) (R150 rows 8x to Bx). -/
def decodeMain2 (op : Byte) : Instr :=
  match reg8OfField (fieldZ op) with
  | some r => aluReg (fieldY op) r
  | none => aluAtHl (fieldY op)

/-- Main table, x = 3 (R150 rows Cx to Fx). -/
def decodeMain3 (op o1 o2 : Byte) : Instr :=
  match fieldZ op with
  | 0#3 => .retCc (condOfField (fieldY op))
  | 1#3 =>
    if fieldQ op then
      match fieldP op with
      | 0#2 => .ret
      | 1#2 => .exx
      | 2#2 => .jpHl
      | _ => .ldSpHl
    else .popRp2 (rp2OfField (fieldP op))
  | 2#3 => .jpCcNn (condOfField (fieldY op)) (pair o2 o1)
  | 3#3 =>
    match fieldY op with
    | 0#3 => .jpNn (pair o2 o1)
    | 1#3 => .prefixCb
    | 2#3 => .outAtNA o1
    | 3#3 => .inAAtN o1
    | 4#3 => .exAtSpHl
    | 5#3 => .exDeHl
    | 6#3 => .di
    | _ => .ei
  | 4#3 => .callCcNn (condOfField (fieldY op)) (pair o2 o1)
  | 5#3 =>
    if fieldQ op then
      match fieldP op with
      | 0#2 => .callNn (pair o2 o1)
      | 1#2 => .prefixXy .ix
      | 2#2 => .prefixEd
      | _ => .prefixXy .iy
    else .pushRp2 (rp2OfField (fieldP op))
  | 6#3 => aluImm (fieldY op) o1
  | _ => .rst (fieldY op)

/-- The main (unprefixed) table, 256 entries (R150). -/
def decodeMain (op o1 o2 : Byte) : Instr :=
  match fieldX op with
  | 0#2 => decodeMain0 op o1 o2
  | 1#2 => decodeMain1 op
  | 2#2 => decodeMain2 op
  | _ => decodeMain3 op o1 o2

/-- The CB table, 256 entries (R151). -/
def decodeCB (op : Byte) : Instr :=
  match fieldX op, reg8OfField (fieldZ op) with
  | 0#2, some r => rotReg (fieldY op) r
  | 0#2, none => rotAtHl (fieldY op)
  | 1#2, some r => .bitR (fieldY op) r
  | 1#2, none => .bitAtHl (fieldY op)
  | 2#2, some r => .resR (fieldY op) r
  | 2#2, none => .resAtHl (fieldY op)
  | _, some r => .setR (fieldY op) r
  | _, none => .setAtHl (fieldY op)

/-- ED table, x = 1 (R152 rows 4x to 7x). -/
def decodeED1 (op o1 o2 : Byte) : Instr :=
  match fieldZ op with
  | 0#3 =>
    match reg8OfField (fieldY op) with
    | some r => .inRC r
    | none => .inC
  | 1#3 =>
    match reg8OfField (fieldY op) with
    | some r => .outCR r
    | none => .outC0
  | 2#3 => if fieldQ op then .adcHlRp (rpOfField (fieldP op)) else .sbcHlRp (rpOfField (fieldP op))
  | 3#3 =>
    if fieldQ op then .ldRpAtNn (rpOfField (fieldP op)) (pair o2 o1)
    else .ldAtNnRp (rpOfField (fieldP op)) (pair o2 o1)
  | 4#3 => .neg (fieldY op)
  | 5#3 =>
    match fieldY op with
    | 1#3 => .reti
    | y => .retn y
  | 6#3 =>
    match fieldY op with
    | 0#3 => .im0 0#2
    | 1#3 => .im0 1#2
    | 2#3 => .im1 0#1
    | 3#3 => .im2 0#1
    | 4#3 => .im0 2#2
    | 5#3 => .im0 3#2
    | 6#3 => .im1 1#1
    | _ => .im2 1#1
  | _ =>
    match fieldY op with
    | 0#3 => .ldIA
    | 1#3 => .ldRA
    | 2#3 => .ldAI
    | 3#3 => .ldAR
    | 4#3 => .rrd
    | 5#3 => .rld
    | _ => .nopEd op

/-- ED table, x = 2: the sixteen block instructions, y and z as 42_exchange_block.md R279 gives them; every other cell is
a no-operation (R152). -/
def decodeED2 (op : Byte) : Instr :=
  match fieldY op, fieldZ op with
  | 4#3, 0#3 => .ldi
  | 4#3, 1#3 => .cpi
  | 4#3, 2#3 => .ini
  | 4#3, 3#3 => .outi
  | 5#3, 0#3 => .ldd
  | 5#3, 1#3 => .cpd
  | 5#3, 2#3 => .ind
  | 5#3, 3#3 => .outd
  | 6#3, 0#3 => .ldir
  | 6#3, 1#3 => .cpir
  | 6#3, 2#3 => .inir
  | 6#3, 3#3 => .otir
  | 7#3, 0#3 => .lddr
  | 7#3, 1#3 => .cpdr
  | 7#3, 2#3 => .indr
  | 7#3, 3#3 => .otdr
  | _, _ => .nopEd op

/-- The ED table, 256 entries (R152). -/
def decodeED (op o1 o2 : Byte) : Instr :=
  match fieldX op with
  | 1#2 => decodeED1 op o1 o2
  | 2#2 => decodeED2 op
  | _ => .nopEd op

/-- The DD/FD CB table, 256 entries, indexed by the final byte (R154). -/
def decodeIndexCB (xy : IndexReg) (d op : Byte) : Instr :=
  match fieldX op, reg8OfField (fieldZ op) with
  | 0#2, some r => rotAtXyDR (fieldY op) xy d r
  | 0#2, none => rotAtXyD (fieldY op) xy d
  | 1#2, _ => .bitAtXyD xy d (fieldY op) (fieldZ op)
  | 2#2, some r => .resAtXyDR xy d (fieldY op) r
  | 2#2, none => .resAtXyD xy d (fieldY op)
  | _, some r => .setAtXyDR xy d (fieldY op) r
  | _, none => .setAtXyD xy d (fieldY op)

/-- DD/FD table, x = 0 (R153 rows 0x to 3x). -/
def decodeIndex0 (xy : IndexReg) (op o1 o2 : Byte) : Instr :=
  match op with
  | 0x09#8 => .addXyRp xy .bc
  | 0x19#8 => .addXyRp xy .de
  | 0x29#8 => .addXyRp xy .xy
  | 0x39#8 => .addXyRp xy .sp
  | 0x21#8 => .ldXyNn xy (pair o2 o1)
  | 0x22#8 => .ldAtNnXy xy (pair o2 o1)
  | 0x2A#8 => .ldXyAtNn xy (pair o2 o1)
  | 0x23#8 => .incXy xy
  | 0x2B#8 => .decXy xy
  | 0x24#8 => .incXyHalf xy .high
  | 0x2C#8 => .incXyHalf xy .low
  | 0x25#8 => .decXyHalf xy .high
  | 0x2D#8 => .decXyHalf xy .low
  | 0x26#8 => .ldXyHalfN xy .high o1
  | 0x2E#8 => .ldXyHalfN xy .low o1
  | 0x34#8 => .incAtXyD xy o1
  | 0x35#8 => .decAtXyD xy o1
  | 0x36#8 => .ldAtXyDN xy o1 o2
  | _ => .fallbackXy xy op

/-- DD/FD table, x = 1 (R153 rows 4x to 7x): an instruction with an (XY+d) operand keeps H and L in its other operand. -/
def decodeIndex1 (xy : IndexReg) (op o1 : Byte) : Instr :=
  match fieldY op, fieldZ op with
  | 6#3, 6#3 => .fallbackXy xy op
  | 4#3, 6#3 => .ldRAtXyD xy .h o1
  | 5#3, 6#3 => .ldRAtXyD xy .l o1
  | 4#3, z =>
    match regXyOfField z with
    | some src => .ldXyHalfR xy .high src
    | none => .fallbackXy xy op
  | 5#3, z =>
    match regXyOfField z with
    | some src => .ldXyHalfR xy .low src
    | none => .fallbackXy xy op
  | 6#3, z =>
    match reg8OfField z with
    | some r => .ldAtXyDR xy o1 r
    | none => .fallbackXy xy op
  | y, 4#3 =>
    match reg8OfField y with
    | some r => .ldRXyHalf xy r .high
    | none => .fallbackXy xy op
  | y, 5#3 =>
    match reg8OfField y with
    | some r => .ldRXyHalf xy r .low
    | none => .fallbackXy xy op
  | y, 6#3 =>
    match reg8OfField y with
    | some r => .ldRAtXyD xy r o1
    | none => .fallbackXy xy op
  | _, _ => .fallbackXy xy op

/-- DD/FD table, x = 2: the ALU on XYH, XYL and (XY+d) (R153 rows 8x to Bx). -/
def decodeIndex2 (xy : IndexReg) (op o1 : Byte) : Instr :=
  match fieldZ op with
  | 4#3 => aluXyHalf (fieldY op) xy .high
  | 5#3 => aluXyHalf (fieldY op) xy .low
  | 6#3 => aluAtXyD (fieldY op) xy o1
  | _ => .fallbackXy xy op

/-- DD/FD table, x = 3 (R153 rows Cx to Fx), with the prefix cells of R136 (a) to (c); `CB d op` is R141's sequence. -/
def decodeIndex3 (xy : IndexReg) (op o1 o2 : Byte) : Instr :=
  match op with
  | 0xCB#8 => decodeIndexCB xy o1 o2
  | 0xDD#8 => .prefixChain xy .ix
  | 0xFD#8 => .prefixChain xy .iy
  | 0xED#8 => .prefixEdAfterXy xy
  | 0xE1#8 => .popXy xy
  | 0xE3#8 => .exAtSpXy xy
  | 0xE5#8 => .pushXy xy
  | 0xE9#8 => .jpXy xy
  | 0xF9#8 => .ldSpXy xy
  | _ => .fallbackXy xy op

/-- The DD/FD table, 256 entries (R136, R153). -/
def decodeIndex (xy : IndexReg) (op o1 o2 : Byte) : Instr :=
  match fieldX op with
  | 0#2 => decodeIndex0 xy op o1 o2
  | 1#2 => decodeIndex1 xy op o1
  | 2#2 => decodeIndex2 xy op o1
  | _ => decodeIndex3 xy op o1 o2

/-- The entry the step runs for opcode byte `op` in prefix state `p` (R130 step 4). -/
def decodeAt (p : Pfx) (op o1 o2 : Byte) : Instr :=
  match p with
  | .noPfx => decodeMain op o1 o2
  | .cb => decodeCB op
  | .ed => decodeED op o1 o2
  | .dd => decodeIndex .ix op o1 o2
  | .fd => decodeIndex .iy op o1 o2

/-- How many bytes follow the opcode byte the step fetched: the operand bytes n, nn, d, e, and in a DD/FD CB instruction
the displacement and the final opcode byte (R110, R141). The fallback fetches its own operands, inside the main-table
instruction it runs (R137). -/
def Instr.operandBytes (i : Instr) : Nat :=
  match i with
  | .ldRpNn _ _ | .ldAtNnHl _ | .ldAtNnA _ | .ldHlAtNn _ | .ldAAtNn _ | .jpCcNn _ _ | .jpNn _ | .callCcNn _ _
  | .callNn _ | .ldAtNnRp _ _ | .ldRpAtNn _ _ | .ldXyNn _ _ | .ldAtNnXy _ _ | .ldXyAtNn _ _ | .ldAtXyDN _ _ _
  | .rlcAtXyD _ _ | .rlcAtXyDR _ _ _ | .rrcAtXyD _ _ | .rrcAtXyDR _ _ _ | .rlAtXyD _ _ | .rlAtXyDR _ _ _
  | .rrAtXyD _ _ | .rrAtXyDR _ _ _ | .slaAtXyD _ _ | .slaAtXyDR _ _ _ | .sraAtXyD _ _ | .sraAtXyDR _ _ _
  | .sllAtXyD _ _ | .sllAtXyDR _ _ _ | .srlAtXyD _ _ | .srlAtXyDR _ _ _ | .bitAtXyD _ _ _ _ | .resAtXyD _ _ _
  | .resAtXyDR _ _ _ _ | .setAtXyD _ _ _ | .setAtXyDR _ _ _ _ => 2
  | .djnz _ | .jr _ | .jrCc _ _ | .ldRN _ _ | .ldAtHlN _ | .addAN _ | .adcAN _ | .subN _ | .sbcAN _ | .andN _
  | .xorN _ | .orN _ | .cpN _ | .outAtNA _ | .inAAtN _ | .ldXyHalfN _ _ _ | .incAtXyD _ _ | .decAtXyD _ _
  | .ldRAtXyD _ _ _ | .ldAtXyDR _ _ _ | .addAAtXyD _ _ | .adcAAtXyD _ _ | .subAtXyD _ _ | .sbcAAtXyD _ _
  | .andAtXyD _ _ | .xorAtXyD _ _ | .orAtXyD _ _ | .cpAtXyD _ _ => 1
  | _ => 0

/-! ## Decoding a byte sequence -/

/-- Why a byte sequence is rejected. -/
inductive DecodeError where
  /-- The sequence ends before its instruction does (or is empty); no other sequence is rejected (R155). -/
  | truncated
  deriving DecidableEq, Repr

/-- Decodes from the opcode byte on, in prefix state `p`: the instruction and the bytes after it. -/
def decodeFrom (p : Pfx) (op : Byte) (rest : List Byte) : Except DecodeError (Instr × List Byte) :=
  let i := decodeAt p op (rest.getD 0 0#8) (rest.getD 1 0#8)
  if rest.length < i.operandBytes then .error .truncated else .ok (i, rest.drop i.operandBytes)

/-- Decodes the instruction a byte sequence starts with, prefix byte included, as the rows of opcode_table.json spell it.
A sequence that ends right after a prefix byte is that prefix row; `DD CB` and `FD CB` with nothing after them are the row
that enters the DD/FD CB form. -/
def decode (bytes : List Byte) : Except DecodeError (Instr × List Byte) :=
  match bytes with
  | [] => .error .truncated
  | op :: rest =>
    match pfxOfByte op, rest with
    | some .dd, [0xCB#8] => .ok (.prefixCbAfterXy .ix, [])
    | some .fd, [0xCB#8] => .ok (.prefixCbAfterXy .iy, [])
    | some p, op2 :: rest2 => decodeFrom p op2 rest2
    | _, _ => decodeFrom .noPfx op rest

/-! ## The encoder -/

/-- The opcode byte with fields x, y, z (R111). -/
def opXYZ (x : BitVec 2) (y z : BitVec 3) : Byte := x ++ y ++ z

/-- The opcode byte with fields x, p, q, z (R111). -/
def opXPQZ (x p : BitVec 2) (q : BitVec 1) (z : BitVec 3) : Byte := x ++ p ++ q ++ z

/-- The bytes of an instruction, first byte first, from the encodings its rule gives (R110, R150 to R154). -/
def encode (i : Instr) : List Byte :=
  match i with
  -- main table (30_encoding.md R150)
  | .nop => [0x00#8]
  | .exAfAf => [0x08#8]
  | .djnz e => [0x10#8, e]
  | .jr e => [0x18#8, e]
  | .jrCc cc e => [opXYZ 0#2 (4#3 + cc.field) 0#3, e]
  | .ldRpNn rp nn => [opXPQZ 0#2 rp.field 0#1 1#3, lo8 nn, hi8 nn]
  | .addHlRp rp => [opXPQZ 0#2 rp.field 1#1 1#3]
  | .ldAtBcA => [0x02#8]
  | .ldAtDeA => [0x12#8]
  | .ldAtNnHl nn => [0x22#8, lo8 nn, hi8 nn]
  | .ldAtNnA nn => [0x32#8, lo8 nn, hi8 nn]
  | .ldAAtBc => [0x0A#8]
  | .ldAAtDe => [0x1A#8]
  | .ldHlAtNn nn => [0x2A#8, lo8 nn, hi8 nn]
  | .ldAAtNn nn => [0x3A#8, lo8 nn, hi8 nn]
  | .incRp rp => [opXPQZ 0#2 rp.field 0#1 3#3]
  | .decRp rp => [opXPQZ 0#2 rp.field 1#1 3#3]
  | .incR r => [opXYZ 0#2 r.field 4#3]
  | .incAtHl => [0x34#8]
  | .decR r => [opXYZ 0#2 r.field 5#3]
  | .decAtHl => [0x35#8]
  | .ldRN r n => [opXYZ 0#2 r.field 6#3, n]
  | .ldAtHlN n => [0x36#8, n]
  | .rlca => [0x07#8]
  | .rrca => [0x0F#8]
  | .rla => [0x17#8]
  | .rra => [0x1F#8]
  | .daa => [0x27#8]
  | .cpl => [0x2F#8]
  | .scf => [0x37#8]
  | .ccf => [0x3F#8]
  | .halt => [0x76#8]
  | .ldRAtHl r => [opXYZ 1#2 r.field 6#3]
  | .ldAtHlR r => [opXYZ 1#2 6#3 r.field]
  | .ldRR dst src => [opXYZ 1#2 dst.field src.field]
  | .addAR r => [opXYZ 2#2 0#3 r.field]
  | .addAAtHl => [0x86#8]
  | .addAN n => [0xC6#8, n]
  | .adcAR r => [opXYZ 2#2 1#3 r.field]
  | .adcAAtHl => [0x8E#8]
  | .adcAN n => [0xCE#8, n]
  | .subR r => [opXYZ 2#2 2#3 r.field]
  | .subAtHl => [0x96#8]
  | .subN n => [0xD6#8, n]
  | .sbcAR r => [opXYZ 2#2 3#3 r.field]
  | .sbcAAtHl => [0x9E#8]
  | .sbcAN n => [0xDE#8, n]
  | .andR r => [opXYZ 2#2 4#3 r.field]
  | .andAtHl => [0xA6#8]
  | .andN n => [0xE6#8, n]
  | .xorR r => [opXYZ 2#2 5#3 r.field]
  | .xorAtHl => [0xAE#8]
  | .xorN n => [0xEE#8, n]
  | .orR r => [opXYZ 2#2 6#3 r.field]
  | .orAtHl => [0xB6#8]
  | .orN n => [0xF6#8, n]
  | .cpR r => [opXYZ 2#2 7#3 r.field]
  | .cpAtHl => [0xBE#8]
  | .cpN n => [0xFE#8, n]
  | .retCc cc => [opXYZ 3#2 cc.field 0#3]
  | .popRp2 rp => [opXPQZ 3#2 rp.field 0#1 1#3]
  | .ret => [0xC9#8]
  | .exx => [0xD9#8]
  | .jpHl => [0xE9#8]
  | .ldSpHl => [0xF9#8]
  | .exAtSpHl => [0xE3#8]
  | .exDeHl => [0xEB#8]
  | .di => [0xF3#8]
  | .ei => [0xFB#8]
  | .jpCcNn cc nn => [opXYZ 3#2 cc.field 2#3, lo8 nn, hi8 nn]
  | .jpNn nn => [0xC3#8, lo8 nn, hi8 nn]
  | .outAtNA n => [0xD3#8, n]
  | .inAAtN n => [0xDB#8, n]
  | .callCcNn cc nn => [opXYZ 3#2 cc.field 4#3, lo8 nn, hi8 nn]
  | .pushRp2 rp => [opXPQZ 3#2 rp.field 0#1 5#3]
  | .callNn nn => [0xCD#8, lo8 nn, hi8 nn]
  | .rst p => [opXYZ 3#2 p 7#3]
  | .prefixCb => [0xCB#8]
  | .prefixEd => [0xED#8]
  | .prefixXy xy => [xy.prefixByte]
  -- CB table (30_encoding.md R151)
  | .rlcR r => [0xCB#8, opXYZ 0#2 0#3 r.field]
  | .rlcAtHl => [0xCB#8, 0x06#8]
  | .rrcR r => [0xCB#8, opXYZ 0#2 1#3 r.field]
  | .rrcAtHl => [0xCB#8, 0x0E#8]
  | .rlR r => [0xCB#8, opXYZ 0#2 2#3 r.field]
  | .rlAtHl => [0xCB#8, 0x16#8]
  | .rrR r => [0xCB#8, opXYZ 0#2 3#3 r.field]
  | .rrAtHl => [0xCB#8, 0x1E#8]
  | .slaR r => [0xCB#8, opXYZ 0#2 4#3 r.field]
  | .slaAtHl => [0xCB#8, 0x26#8]
  | .sraR r => [0xCB#8, opXYZ 0#2 5#3 r.field]
  | .sraAtHl => [0xCB#8, 0x2E#8]
  | .sllR r => [0xCB#8, opXYZ 0#2 6#3 r.field]
  | .sllAtHl => [0xCB#8, 0x36#8]
  | .srlR r => [0xCB#8, opXYZ 0#2 7#3 r.field]
  | .srlAtHl => [0xCB#8, 0x3E#8]
  | .bitR b r => [0xCB#8, opXYZ 1#2 b r.field]
  | .bitAtHl b => [0xCB#8, opXYZ 1#2 b 6#3]
  | .resR b r => [0xCB#8, opXYZ 2#2 b r.field]
  | .resAtHl b => [0xCB#8, opXYZ 2#2 b 6#3]
  | .setR b r => [0xCB#8, opXYZ 3#2 b r.field]
  | .setAtHl b => [0xCB#8, opXYZ 3#2 b 6#3]
  -- ED table (30_encoding.md R152)
  | .inRC r => [0xED#8, opXYZ 1#2 r.field 0#3]
  | .inC => [0xED#8, 0x70#8]
  | .outCR r => [0xED#8, opXYZ 1#2 r.field 1#3]
  | .outC0 => [0xED#8, 0x71#8]
  | .sbcHlRp rp => [0xED#8, opXPQZ 1#2 rp.field 0#1 2#3]
  | .adcHlRp rp => [0xED#8, opXPQZ 1#2 rp.field 1#1 2#3]
  | .ldAtNnRp rp nn => [0xED#8, opXPQZ 1#2 rp.field 0#1 3#3, lo8 nn, hi8 nn]
  | .ldRpAtNn rp nn => [0xED#8, opXPQZ 1#2 rp.field 1#1 3#3, lo8 nn, hi8 nn]
  | .neg dup => [0xED#8, opXYZ 1#2 dup 4#3]
  | .reti => [0xED#8, 0x4D#8]
  | .retn dup => [0xED#8, opXYZ 1#2 dup 5#3]
  | .im0 dup => [0xED#8, (1#2 ++ dup.extractLsb' 1 1 ++ 0#1 ++ dup.extractLsb' 0 1 ++ 6#3 : BitVec (2 + 1 + 1 + 1 + 3))]
  | .im1 dup => [0xED#8, (1#2 ++ dup ++ 2#2 ++ 6#3 : BitVec (2 + 1 + 2 + 3))]
  | .im2 dup => [0xED#8, (1#2 ++ dup ++ 3#2 ++ 6#3 : BitVec (2 + 1 + 2 + 3))]
  | .ldIA => [0xED#8, 0x47#8]
  | .ldRA => [0xED#8, 0x4F#8]
  | .ldAI => [0xED#8, 0x57#8]
  | .ldAR => [0xED#8, 0x5F#8]
  | .rrd => [0xED#8, 0x67#8]
  | .rld => [0xED#8, 0x6F#8]
  | .ldi => [0xED#8, 0xA0#8]
  | .cpi => [0xED#8, 0xA1#8]
  | .ini => [0xED#8, 0xA2#8]
  | .outi => [0xED#8, 0xA3#8]
  | .ldd => [0xED#8, 0xA8#8]
  | .cpd => [0xED#8, 0xA9#8]
  | .ind => [0xED#8, 0xAA#8]
  | .outd => [0xED#8, 0xAB#8]
  | .ldir => [0xED#8, 0xB0#8]
  | .cpir => [0xED#8, 0xB1#8]
  | .inir => [0xED#8, 0xB2#8]
  | .otir => [0xED#8, 0xB3#8]
  | .lddr => [0xED#8, 0xB8#8]
  | .cpdr => [0xED#8, 0xB9#8]
  | .indr => [0xED#8, 0xBA#8]
  | .otdr => [0xED#8, 0xBB#8]
  | .nopEd op => [0xED#8, op]
  -- DD/FD table (30_encoding.md R153)
  | .addXyRp xy rp => [xy.prefixByte, opXPQZ 0#2 rp.field 1#1 1#3]
  | .ldXyNn xy nn => [xy.prefixByte, 0x21#8, lo8 nn, hi8 nn]
  | .ldAtNnXy xy nn => [xy.prefixByte, 0x22#8, lo8 nn, hi8 nn]
  | .ldXyAtNn xy nn => [xy.prefixByte, 0x2A#8, lo8 nn, hi8 nn]
  | .incXy xy => [xy.prefixByte, 0x23#8]
  | .decXy xy => [xy.prefixByte, 0x2B#8]
  | .incXyHalf xy half => [xy.prefixByte, opXYZ 0#2 half.field 4#3]
  | .decXyHalf xy half => [xy.prefixByte, opXYZ 0#2 half.field 5#3]
  | .ldXyHalfN xy half n => [xy.prefixByte, opXYZ 0#2 half.field 6#3, n]
  | .incAtXyD xy d => [xy.prefixByte, 0x34#8, d]
  | .decAtXyD xy d => [xy.prefixByte, 0x35#8, d]
  | .ldAtXyDN xy d n => [xy.prefixByte, 0x36#8, d, n]
  | .ldRAtXyD xy r d => [xy.prefixByte, opXYZ 1#2 r.field 6#3, d]
  | .ldAtXyDR xy d r => [xy.prefixByte, opXYZ 1#2 6#3 r.field, d]
  | .ldRXyHalf xy r half => [xy.prefixByte, opXYZ 1#2 r.field half.field]
  | .ldXyHalfR xy half src => [xy.prefixByte, opXYZ 1#2 half.field src.field]
  | .addAAtXyD xy d => [xy.prefixByte, 0x86#8, d]
  | .addAXyHalf xy half => [xy.prefixByte, opXYZ 2#2 0#3 half.field]
  | .adcAAtXyD xy d => [xy.prefixByte, 0x8E#8, d]
  | .adcAXyHalf xy half => [xy.prefixByte, opXYZ 2#2 1#3 half.field]
  | .subAtXyD xy d => [xy.prefixByte, 0x96#8, d]
  | .subXyHalf xy half => [xy.prefixByte, opXYZ 2#2 2#3 half.field]
  | .sbcAAtXyD xy d => [xy.prefixByte, 0x9E#8, d]
  | .sbcAXyHalf xy half => [xy.prefixByte, opXYZ 2#2 3#3 half.field]
  | .andAtXyD xy d => [xy.prefixByte, 0xA6#8, d]
  | .andXyHalf xy half => [xy.prefixByte, opXYZ 2#2 4#3 half.field]
  | .xorAtXyD xy d => [xy.prefixByte, 0xAE#8, d]
  | .xorXyHalf xy half => [xy.prefixByte, opXYZ 2#2 5#3 half.field]
  | .orAtXyD xy d => [xy.prefixByte, 0xB6#8, d]
  | .orXyHalf xy half => [xy.prefixByte, opXYZ 2#2 6#3 half.field]
  | .cpAtXyD xy d => [xy.prefixByte, 0xBE#8, d]
  | .cpXyHalf xy half => [xy.prefixByte, opXYZ 2#2 7#3 half.field]
  | .popXy xy => [xy.prefixByte, 0xE1#8]
  | .exAtSpXy xy => [xy.prefixByte, 0xE3#8]
  | .pushXy xy => [xy.prefixByte, 0xE5#8]
  | .jpXy xy => [xy.prefixByte, 0xE9#8]
  | .ldSpXy xy => [xy.prefixByte, 0xF9#8]
  | .prefixChain xy second => [xy.prefixByte, second.prefixByte]
  | .prefixEdAfterXy xy => [xy.prefixByte, 0xED#8]
  | .prefixCbAfterXy xy => [xy.prefixByte, 0xCB#8]
  | .fallbackXy xy op => [xy.prefixByte, op]
  -- DD/FD CB table (30_encoding.md R154)
  | .rlcAtXyD xy d => [xy.prefixByte, 0xCB#8, d, 0x06#8]
  | .rlcAtXyDR xy d r => [xy.prefixByte, 0xCB#8, d, opXYZ 0#2 0#3 r.field]
  | .rrcAtXyD xy d => [xy.prefixByte, 0xCB#8, d, 0x0E#8]
  | .rrcAtXyDR xy d r => [xy.prefixByte, 0xCB#8, d, opXYZ 0#2 1#3 r.field]
  | .rlAtXyD xy d => [xy.prefixByte, 0xCB#8, d, 0x16#8]
  | .rlAtXyDR xy d r => [xy.prefixByte, 0xCB#8, d, opXYZ 0#2 2#3 r.field]
  | .rrAtXyD xy d => [xy.prefixByte, 0xCB#8, d, 0x1E#8]
  | .rrAtXyDR xy d r => [xy.prefixByte, 0xCB#8, d, opXYZ 0#2 3#3 r.field]
  | .slaAtXyD xy d => [xy.prefixByte, 0xCB#8, d, 0x26#8]
  | .slaAtXyDR xy d r => [xy.prefixByte, 0xCB#8, d, opXYZ 0#2 4#3 r.field]
  | .sraAtXyD xy d => [xy.prefixByte, 0xCB#8, d, 0x2E#8]
  | .sraAtXyDR xy d r => [xy.prefixByte, 0xCB#8, d, opXYZ 0#2 5#3 r.field]
  | .sllAtXyD xy d => [xy.prefixByte, 0xCB#8, d, 0x36#8]
  | .sllAtXyDR xy d r => [xy.prefixByte, 0xCB#8, d, opXYZ 0#2 6#3 r.field]
  | .srlAtXyD xy d => [xy.prefixByte, 0xCB#8, d, 0x3E#8]
  | .srlAtXyDR xy d r => [xy.prefixByte, 0xCB#8, d, opXYZ 0#2 7#3 r.field]
  | .bitAtXyD xy d b dup => [xy.prefixByte, 0xCB#8, d, opXYZ 1#2 b dup]
  | .resAtXyD xy d b => [xy.prefixByte, 0xCB#8, d, opXYZ 2#2 b 6#3]
  | .resAtXyDR xy d b r => [xy.prefixByte, 0xCB#8, d, opXYZ 2#2 b r.field]
  | .setAtXyD xy d b => [xy.prefixByte, 0xCB#8, d, opXYZ 3#2 b 6#3]
  | .setAtXyDR xy d b r => [xy.prefixByte, 0xCB#8, d, opXYZ 3#2 b r.field]

/-! ## Words as opcode_table.json writes them -/

/-- The `n` bytes of a table word, FIRST BYTE MOST SIGNIFICANT: the table writes `match` and `mask` "over the whole
instruction, first byte first", and its `fixed` bits number that one number with bit 0 its least significant bit
(spec/INDEX.md; spec/98_reader.md; log entry 1). -/
def tableBytes (n w : Nat) : List Byte :=
  match n with
  | 0 => []
  | n + 1 => BitVec.ofNat 8 (w / 256 ^ n) :: tableBytes n w

/-- The instruction the decoder reads from an `nbits`-bit table word `w`. Bytes the word does not give are zeros. -/
def decodeTableWord (nbits w : Nat) : Option Instr :=
  match decode (tableBytes (nbits / 8) w) with
  | .ok (i, _) => some i
  | .error _ =>
    match decode (tableBytes (nbits / 8) w ++ [0#8, 0#8, 0#8]) with
    | .ok (i, _) => some i
    | .error _ => none

end Sys2Proof
end

