-- ==== Sys2Proof/Machine/Flags.lean ====
section
/-! DEFINITION. The flag register's layout (10_state.md R27), the flag helpers (R29), the conditions (R31) and every
computation of a result with its flags that the instruction rules name. -/

namespace Sys2Proof.Machine

/-! ## The layout of F (R27) -/

def flagS (f : Byte) : Bool := f.getLsbD 7
def flagZ (f : Byte) : Bool := f.getLsbD 6
def flagY (f : Byte) : Bool := f.getLsbD 5
def flagH (f : Byte) : Bool := f.getLsbD 4
def flagX (f : Byte) : Bool := f.getLsbD 3
def flagPV (f : Byte) : Bool := f.getLsbD 2
def flagN (f : Byte) : Bool := f.getLsbD 1
def flagC (f : Byte) : Bool := f.getLsbD 0

/-- The byte F with the given flags, from bit 7 down: S Z Y H X PV N C (R27). -/
def mkF (s z y h x pv n c : Bool) : Byte :=
  BitVec.ofBool s ++ BitVec.ofBool z ++ BitVec.ofBool y ++ BitVec.ofBool h ++
    BitVec.ofBool x ++ BitVec.ofBool pv ++ BitVec.ofBool n ++ BitVec.ofBool c

/-- A result byte and the F that goes with it. -/
structure Out8 where
  val : Byte
  f : Byte
  deriving DecidableEq, Repr

/-- A result word and the F that goes with it. -/
structure Out16 where
  val : Word
  f : Byte
  deriving DecidableEq, Repr

/-- The carry as a number 0 or 1. -/
def carryIn (c : Bool) : Byte := (BitVec.ofBool c).setWidth 8

/-- `parity(v)`: true iff the number of 1 bits of v is even (R29). -/
def parity (v : Byte) : Bool :=
  !(v.getLsbD 0 ^^ v.getLsbD 1 ^^ v.getLsbD 2 ^^ v.getLsbD 3 ^^ v.getLsbD 4 ^^ v.getLsbD 5 ^^ v.getLsbD 6 ^^ v.getLsbD 7)

/-- The condition `cond(k)` on F (R31). -/
def condHolds (cc : Cond) (f : Byte) : Bool :=
  match cc with
  | .nz => !flagZ f
  | .z => flagZ f
  | .nc => !flagC f
  | .c => flagC f
  | .po => !flagPV f
  | .pe => flagPV f
  | .p => !flagS f
  | .m => flagS f

/-! ## 8-bit arithmetic and logic (43_alu8.md R310 to R317) -/

/-- `Add8(a, b, c)` (R310). -/
def add8 (a b : Byte) (c : Bool) : Out8 :=
  let r := a + b + carryIn c
  { val := r
    f := mkF (r.getLsbD 7) (r = 0#8) (r.getLsbD 5) ((a ^^^ b ^^^ r).getLsbD 4) (r.getLsbD 3)
      (((a ^^^ ~~~b) &&& (a ^^^ r)).getLsbD 7) false (0xFF < a.toNat + b.toNat + c.toNat) }

/-- `Sub8(a, b, c)` (R311). -/
def sub8 (a b : Byte) (c : Bool) : Out8 :=
  let r := a - b - carryIn c
  { val := r
    f := mkF (r.getLsbD 7) (r = 0#8) (r.getLsbD 5) ((a ^^^ b ^^^ r).getLsbD 4) (r.getLsbD 3)
      (((a ^^^ b) &&& (a ^^^ r)).getLsbD 7) true (a.toNat < b.toNat + c.toNat) }

/-- The F of `Cp8(a, b)`: `Sub8(a, b, 0)` with Y and X from the operand (R312; 90_conflicts.md C13). -/
def cp8F (a b : Byte) : Byte :=
  let f := (sub8 a b false).f
  mkF (flagS f) (flagZ f) (b.getLsbD 5) (flagH f) (b.getLsbD 3) (flagPV f) (flagN f) (flagC f)

/-- `SZ53P(r)` with the given H and C, N = 0 (R29). -/
def szpF (r : Byte) (h c : Bool) : Byte :=
  mkF (r.getLsbD 7) (r = 0#8) (r.getLsbD 5) h (r.getLsbD 3) (parity r) false c

/-- `And8(a, b)` (R313). -/
def and8 (a b : Byte) : Out8 := { val := a &&& b, f := szpF (a &&& b) true false }

/-- `Xor8(a, b)` (R314). -/
def xor8 (a b : Byte) : Out8 := { val := a ^^^ b, f := szpF (a ^^^ b) false false }

/-- `Or8(a, b)` (R315). -/
def or8 (a b : Byte) : Out8 := { val := a ||| b, f := szpF (a ||| b) false false }

/-- `Inc8(v)`; the carry of `f` is kept (R316). -/
def inc8 (v f : Byte) : Out8 :=
  let r := v + 1#8
  { val := r
    f := mkF (r.getLsbD 7) (r = 0#8) (r.getLsbD 5) (v.extractLsb' 0 4 = 0xF#4) (r.getLsbD 3) (v = 0x7F#8) false (flagC f) }

/-- `Dec8(v)`; the carry of `f` is kept (R317). -/
def dec8 (v f : Byte) : Out8 :=
  let r := v - 1#8
  { val := r
    f := mkF (r.getLsbD 7) (r = 0#8) (r.getLsbD 5) (v.extractLsb' 0 4 = 0x0#4) (r.getLsbD 3) (v = 0x80#8) true (flagC f) }

/-! ## Accumulator and flag operations (44_general_control.md R380 to R384) -/

/-- `DAA`: all conditions on the old A and the old F (R380). -/
def daa8 (a f : Byte) : Out8 :=
  let lo := (a.extractLsb' 0 4).toNat
  let d6 : Byte := if flagH f || 9 < lo then 0x06#8 else 0x00#8
  let high := flagC f || 0x99 < a.toNat
  let diff : Byte := if high then d6 ||| 0x60#8 else d6
  let c' := flagC f || high
  let h' := if flagN f then flagH f && lo < 6 else decide (9 < lo)
  let r := if flagN f then a - diff else a + diff
  { val := r
    f := mkF (r.getLsbD 7) (r = 0#8) (r.getLsbD 5) h' (r.getLsbD 3) (parity r) (flagN f) c' }

/-- `CPL` (R381). -/
def cpl8 (a f : Byte) : Out8 :=
  let r := a ^^^ 0xFF#8
  { val := r
    f := mkF (flagS f) (flagZ f) (r.getLsbD 5) true (r.getLsbD 3) (flagPV f) true (flagC f) }

/-- The byte `x53` of SCF and CCF before masking: `(q ^ F) | A` with `q = F` if the instruction before modified the flags,
else 0 (R383). -/
def scfCcfBits (a f : Byte) (qLast : Bool) : Byte := ((if qLast then f else 0#8) ^^^ f) ||| a

/-- The F of `CCF` (R383). -/
def ccfF (a f : Byte) (qLast : Bool) : Byte :=
  let x := scfCcfBits a f qLast
  mkF (flagS f) (flagZ f) (x.getLsbD 5) (flagC f) (x.getLsbD 3) (flagPV f) false (!flagC f)

/-- The F of `SCF` (R384). -/
def scfF (a f : Byte) (qLast : Bool) : Byte :=
  let x := scfCcfBits a f qLast
  mkF (flagS f) (flagZ f) (x.getLsbD 5) false (x.getLsbD 3) (flagPV f) false true

/-! ## 16-bit arithmetic (45_alu16.md R410 to R412) -/

/-- `Add16(a, b)`: S, Z and PV of `f` are kept (R410). -/
def add16 (a b : Word) (f : Byte) : Out16 :=
  let r := a + b
  { val := r
    f := mkF (flagS f) (flagZ f) (r.getLsbD 13) ((a ^^^ b ^^^ r).getLsbD 12) (r.getLsbD 11) (flagPV f) false
      (0xFFFF < a.toNat + b.toNat) }

/-- `Adc16(a, b)` with carry-in `c` (R411). -/
def adc16 (a b : Word) (c : Bool) : Out16 :=
  let r := a + b + (carryIn c).setWidth 16
  { val := r
    f := mkF (r.getLsbD 15) (r = 0#16) (r.getLsbD 13) ((a ^^^ b ^^^ r).getLsbD 12) (r.getLsbD 11)
      (((a ^^^ ~~~b) &&& (a ^^^ r)).getLsbD 15) false (0xFFFF < a.toNat + b.toNat + c.toNat) }

/-- `Sbc16(a, b)` with borrow-in `c` (R412). -/
def sbc16 (a b : Word) (c : Bool) : Out16 :=
  let r := a - b - (carryIn c).setWidth 16
  { val := r
    f := mkF (r.getLsbD 15) (r = 0#16) (r.getLsbD 13) ((a ^^^ b ^^^ r).getLsbD 12) (r.getLsbD 11)
      (((a ^^^ b) &&& (a ^^^ r)).getLsbD 15) true (a.toNat < b.toNat + c.toNat) }

/-! ## Rotates and shifts (46_rotate_shift.md R430 to R434, R472, R473) -/

/-- The F of the accumulator rotates: C = c, H = N = 0, Y and X from the new A, the rest kept (R430 to R433). -/
def rotAF (r f : Byte) (c : Bool) : Byte :=
  mkF (flagS f) (flagZ f) (r.getLsbD 5) false (r.getLsbD 3) (flagPV f) false c

/-- `v` shifted left with `low` into bit 0. -/
def shiftLeftIn (v : Byte) (low : Bool) : Byte := (v <<< 1) ||| carryIn low

/-- `v` shifted right with `high` into bit 7. -/
def shiftRightIn (v : Byte) (high : Bool) : Byte := (v >>> 1) ||| (carryIn high <<< 7)

/-- The eight CB operations (R434). -/
inductive RotOp where
  | rlc | rrc | rl | rr | sla | sra | sll | srl
  deriving DecidableEq, Repr

/-- The result of `Rot(y, v)` with the old carry `c` (R434). -/
def rotVal (op : RotOp) (v : Byte) (c : Bool) : Byte :=
  match op with
  | .rlc => shiftLeftIn v (v.getLsbD 7)
  | .rrc => shiftRightIn v (v.getLsbD 0)
  | .rl => shiftLeftIn v c
  | .rr => shiftRightIn v c
  | .sla => shiftLeftIn v false
  | .sra => shiftRightIn v (v.getLsbD 7)
  | .sll => shiftLeftIn v true
  | .srl => shiftRightIn v false

/-- The bit `Rot(y, v)` shifts out: bit 7 to the left, bit 0 to the right (R434). -/
def rotOut (op : RotOp) (v : Byte) : Bool :=
  match op with
  | .rlc | .rl | .sla | .sll => v.getLsbD 7
  | .rrc | .rr | .sra | .srl => v.getLsbD 0

/-- `Rot(y, v)`: `F <- SZ53P(r) | c` (R434). -/
def rot8 (op : RotOp) (v : Byte) (c : Bool) : Out8 :=
  let r := rotVal op v c
  { val := r, f := szpF r false (rotOut op v) }

/-- The F of a byte `v` with S, Z, Y, X, PV = parity from it, H = N = 0 and the carry of `f` kept: RLD and RRD (R472) and
`IN r,(C)` (49_io.md R531). -/
def szpKeepC (v f : Byte) : Byte := szpF v false (flagC f)

/-! ## Bits (47_bit.md R480 to R490) -/

/-- `BitFlags(b, v, yx)`, the carry of `f` kept. -/
def bitF (b : BitVec 3) (v yx f : Byte) : Byte :=
  let bit := v.getLsbD b.toNat
  mkF (b = 7#3 && bit) (!bit) (yx.getLsbD 5) true (yx.getLsbD 3) (!bit) false (flagC f)

/-- `1 << b`. -/
def bitMask (b : BitVec 3) : Byte := 1#8 <<< b.toNat

/-- `v & ~(1 << b)` (R483). -/
def resBit (b : BitVec 3) (v : Byte) : Byte := v &&& ~~~(bitMask b)

/-- `v | (1 << b)` (R487). -/
def setBit (b : BitVec 3) (v : Byte) : Byte := v ||| bitMask b

/-! ## Loads of I and R, and the block instructions -/

/-- The F of `LD A,I` and `LD A,R`: S, Z, Y, X from A, H = N = 0, the given PV, the carry of `f` kept (40_load8.md R214). -/
def ldAirF (a f : Byte) (pv : Bool) : Byte :=
  mkF (a.getLsbD 7) (a = 0#8) (a.getLsbD 5) false (a.getLsbD 3) pv false (flagC f)

/-- The F of a block load: `n = t + A`, Y = n[1], X = n[3], H = N = 0, PV = (BC ≠ 0), S, Z, C kept (42_exchange_block.md
R281). -/
def blockLoadF (a t f : Byte) (bc : Word) : Byte :=
  let n := t + a
  mkF (flagS f) (flagZ f) (n.getLsbD 1) false (n.getLsbD 3) (bc ≠ 0#16) false (flagC f)

/-- The F of a block compare: S, Z, H from `r = A - t`, Y = n[1] and X = n[3] of `n = r - H`, PV = (BC ≠ 0), N = 1, C kept
(R285). -/
def blockCompareF (a t f : Byte) (bc : Word) : Byte :=
  let r := a - t
  let h := (a ^^^ t ^^^ r).getLsbD 4
  let n := r - carryIn h
  mkF (r.getLsbD 7) (r = 0#8) (n.getLsbD 1) h (n.getLsbD 3) (bc ≠ 0#16) true (flagC f)

/-- `IOFlags(t, k)` with the decremented B; `k` is a sum of two bytes (42_exchange_block.md, common to R289 to R296). -/
def blockIoF (b t : Byte) (k : Nat) : Byte :=
  mkF (b.getLsbD 7) (b = 0#8) (b.getLsbD 5) (0xFF < k) (b.getLsbD 3) (parity (BitVec.ofNat 8 (k % 8) ^^^ b)) (t.getLsbD 7)
    (0xFF < k)

/-- F with Y and X from bits 13 and 11 of the rewound PC (R280, `blockRepeatXYFromPC`). -/
def yxFromPC (f : Byte) (pc : Word) : Byte :=
  mkF (flagS f) (flagZ f) (pc.getLsbD 13) (flagH f) (pc.getLsbD 11) (flagPV f) (flagN f) (flagC f)

end Sys2Proof.Machine
end

