-- ==== Sys2Proof/Config.lean ====
section
/-! DEFINITION. What an implementation fixes: the parameters of 00_scope.md R8, the fixed addresses of 20_memory.md R82,
what an unwritten byte of memory reads as, and the free draws (port reads, acknowledge bytes), which have no body. -/

namespace Sys2Proof

/-- The parameters of 00_scope.md R8 that are plain values. A machine carries one such record; no step changes it. -/
structure Params where
  /-- `LD A,I` and `LD A,R` report P/V = IFF2 and not intLine (true) or IFF2 (false); D19. -/
  ldAirIntQuirk : Bool
  /-- The byte `OUT (C),0` writes; D20. -/
  outC0Value : Byte
  /-- A repeating block iteration takes Y and X from the rewound PC; D21. -/
  blockRepeatXYFromPC : Bool
  /-- POP AF and EX AF,AF' count as flag-modifying for Q; D17. -/
  popAfSetsQ : Bool
  deriving DecidableEq, Repr

/-- The reference values of R8 (D17, D19, D20, D21): the NMOS part. -/
def Params.reference : Params where
  ldAirIntQuirk := true
  outC0Value := 0x00#8
  blockRepeatXYFromPC := false
  popAfSetsQ := false

/-- The byte the environment returns for the `n`-th undetermined read of a port: 20_memory.md R89 makes it a draw under
no law, so it has no body and nothing can be proved of its value (log entry 4). -/
opaque Config.portIn (n : Nat) (port : Word) : Byte

/-- The byte on the data bus at the `n`-th undetermined maskable acknowledge: 60_exceptions.md R612 makes it a draw
(D29), so it has no body (log entry 5). -/
opaque Config.intAckByte (n : Nat) : Byte

/-- What a byte of memory that nothing has written reads as. DESIGN CHOICE, unsafe: the spec gives memory no contents at
power-up (log entry 3). -/
def Config.unwrittenByte : Byte := 0x00#8

/-- The NMI target (R82, 60_exceptions.md R611). -/
def Config.nmiVector : Word := 0x0066#16

/-- The IM 1 interrupt target (R82, 60_exceptions.md R614). -/
def Config.im1Vector : Word := 0x0038#16

end Sys2Proof
end

