-- ==== Sys2Proof/Machine/State.lean ====
section
/-! DEFINITION. The state of the machine (10_state.md R20 to R43), its outcomes, and the state right after construction
(R44, R46). -/

namespace Sys2Proof.Machine

/-- The interrupt mode (10_state.md R35). -/
inductive IMode where
  | im0 | im1 | im2
  deriving DecidableEq, Repr

/-- What the core records in the history, in the order it happens (20_memory.md R98; D28; 60_exceptions.md R612, R630,
R631; 70_reset_and_hazards.md R704). -/
inductive Event where
  /-- An opcode-fetch read of byte `v` at `a`. -/
  | fetch (a : Word) (v : Byte)
  /-- An operand or data read. -/
  | read (a : Word) (v : Byte)
  /-- A data write. -/
  | write (a : Word) (v : Byte)
  /-- A port read. -/
  | portRead (p : Word) (v : Byte)
  /-- A port write. -/
  | portWrite (p : Word) (v : Byte)
  /-- A maskable acknowledge. -/
  | intAck (ack : Byte)
  /-- A call of the breakpoint hook: address, fetched opcode, returned opcode. -/
  | breakpoint (a : Word) (op op' : Byte)
  /-- The boundary notification of trace mode. -/
  | boundary
  /-- A reset. -/
  | busReset
  deriving DecidableEq, Repr

/-- One entry of the breakpoint hook's table: at `addr`, fetched opcode `op` is replaced by `subst`. -/
structure HookEntry where
  addr : Word
  op : Byte
  subst : Byte
  deriving DecidableEq, Repr

/-- Memory: cells (address, byte), addresses strictly rising, no byte equal to what an unlisted address reads as. -/
abbrev Memory := List Host.Cell

/-- The machine's state. The fields after `mem` up to `params` are the environment that 10_state.md R43 and D4 let a model
add; the last three are the model's own (INVENTORY.md, State). -/
structure State where
  /-- The accumulator A (R20). -/
  a : Byte
  /-- The flags F: S Z Y H X PV N C from bit 7 to bit 0 (R27). -/
  f : Byte
  b : Byte
  c : Byte
  d : Byte
  e : Byte
  h : Byte
  l : Byte
  /-- The shadow register A' (R21), and so on. -/
  altA : Byte
  altF : Byte
  altB : Byte
  altC : Byte
  altD : Byte
  altE : Byte
  altH : Byte
  altL : Byte
  /-- The index registers (R22). -/
  ix : Word
  iy : Word
  /-- The stack pointer (R23). -/
  sp : Word
  /-- The program counter (R24). -/
  pc : Word
  /-- The interrupt-vector base register I (R25). -/
  i : Byte
  /-- Bits 6..0 of the refresh counter R (R26). -/
  r7 : BitVec 7
  /-- Bit 7 of R, held apart (R26). -/
  rhi : Bool
  /-- MEMPTR (R32). -/
  memptr : Word
  /-- Whether the instruction before modified the flags (R33). -/
  qLast : Bool
  /-- The interrupt-enable latches (R34). -/
  iff1 : Bool
  iff2 : Bool
  /-- The interrupt mode (R35). -/
  im : IMode
  /-- The halted flag (R36). -/
  halted : Bool
  /-- The enable delay of EI (R37). -/
  pendingEI : Bool
  /-- The level of the maskable interrupt line, the host's (R38). -/
  intLine : Bool
  /-- A pending NMI (R39). -/
  nmiPending : Bool
  /-- The opcode-prefix state (R40). -/
  pfx : Pfx
  /-- The request for a soft reset (R41). -/
  pinResetReq : Bool
  /-- The breakpoint set, strictly rising (R42). -/
  bp : List Word
  /-- Trace mode (R42). -/
  traceEnabled : Bool
  /-- Memory (20_memory.md R80, R91). -/
  mem : Memory
  /-- The breakpoint hook as a table; an entry that is absent returns the opcode itself (R630; D16). -/
  bpHook : List HookEntry
  /-- The event history, newest event first (20_memory.md R98). -/
  history : List Event
  /-- Port bytes the host has supplied, next one first (20_memory.md R89; 60_exceptions.md R635). -/
  portInputs : List Byte
  /-- Acknowledge bytes the host has supplied, next one first (60_exceptions.md R612, R635). -/
  ackInputs : List Byte
  /-- The parameters of 00_scope.md R8. -/
  params : Params
  /-- The model's own: port reads answered by `Config.portIn` so far. -/
  portDraws : Nat
  /-- The model's own: acknowledges answered by `Config.intAckByte` so far. -/
  ackDraws : Nat
  /-- The model's own: the step's local `qCur` (30_encoding.md R130); false between steps. -/
  qCur : Bool
  deriving DecidableEq, Repr

/-- The reasons a step can fault: the closed set of 60_exceptions.md R601. -/
inductive Fault where
  /-- An internal-consistency violation of the dispatcher (R600, R601). Raised only by `execMain` and `execIndexCB` on an
  instruction of another table, which the decoder never gives them, so no step raises it. Safe. -/
  | badPrefixState
  /-- An IM 0 acknowledge drew a byte that is no RST opcode. Raised by `State.acceptINT` (R613; D8). Safe: the model stops
  where a chip executes the byte. -/
  | im0NotRST (ack : Byte)
  deriving DecidableEq, Repr

/-- The reasons a step can be refused. -/
inductive Refusal where
  /-- No meaning written for the instruction. Raised by an arm of `exec` only; no arm of this model does. Safe. -/
  | notModelled (mnemonic : String)
  deriving DecidableEq, Repr

/-- What a meaning answers. -/
abbrev Result := Host.Outcome State Fault Refusal

/-- The state right after construction: a full reset (R44, R46), with the debug configuration of D16. DESIGN CHOICE: the
level of the line, empty memory, empty history and no supplied bytes (log entries 3, 4, 5, 8, 10). -/
def State.reset : State where
  a := 0xFF#8
  f := 0xFF#8
  b := 0xFF#8
  c := 0xFF#8
  d := 0xFF#8
  e := 0xFF#8
  h := 0xFF#8
  l := 0xFF#8
  altA := 0xFF#8
  altF := 0xFF#8
  altB := 0xFF#8
  altC := 0xFF#8
  altD := 0xFF#8
  altE := 0xFF#8
  altH := 0xFF#8
  altL := 0xFF#8
  ix := 0xFFFF#16
  iy := 0xFFFF#16
  sp := 0xFFFF#16
  pc := 0x0000#16
  i := 0x00#8
  r7 := 0#7
  rhi := false
  memptr := 0xFFFF#16
  qLast := false
  iff1 := false
  iff2 := false
  im := .im0
  halted := false
  pendingEI := false
  intLine := false
  nmiPending := false
  pfx := .noPfx
  pinResetReq := false
  bp := []
  traceEnabled := false
  mem := []
  bpHook := []
  history := []
  portInputs := []
  ackInputs := []
  params := Params.reference
  portDraws := 0
  ackDraws := 0
  qCur := false

end Sys2Proof.Machine
end

