-- ==== Sys2Proof/Machine/Memory.lean ====
section
/-! DEFINITION. The 64 KiB memory as plain RAM (20_memory.md R80, R84, R91; D4), in its canonical form. -/

namespace Sys2Proof.Machine

/-- The byte at an address of the list; an unlisted address reads as `Config.unwrittenByte`. -/
def Memory.readCell (m : Memory) (n : Nat) : Byte :=
  match m with
  | [] => Config.unwrittenByte
  | (k, v) :: rest => if k = n then v else Memory.readCell rest n

/-- Writes a byte and keeps the canonical form: writing what an unlisted address reads as takes the entry out. -/
def Memory.writeCell (m : Memory) (n : Nat) (v : Byte) : Memory :=
  match m with
  | [] => if v = Config.unwrittenByte then [] else [(n, v)]
  | (k, w) :: rest =>
    if n < k then (if v = Config.unwrittenByte then (k, w) :: rest else (n, v) :: (k, w) :: rest)
    else if n = k then (if v = Config.unwrittenByte then rest else (n, v) :: rest)
    else (k, w) :: Memory.writeCell rest n v

/-- The byte at address `a` (R84). -/
def Memory.read (m : Memory) (a : Word) : Byte := m.readCell a.toNat

/-- Memory with byte `v` stored at address `a` (R84). -/
def Memory.write (m : Memory) (a : Word) (v : Byte) : Memory := m.writeCell a.toNat v

/-- The canonical form from a lower bound on: every address at least `lo`, strictly rising and below 2^16, and no byte
equal to what an unlisted address reads as. -/
def Memory.wfFrom (lo : Nat) (m : Memory) : Bool :=
  match m with
  | [] => true
  | (k, v) :: rest => lo ≤ k && k < 0x10000 && v != Config.unwrittenByte && Memory.wfFrom (k + 1) rest

/-- The canonical form of a memory. -/
def Memory.wf (m : Memory) : Bool := Memory.wfFrom 0 m

end Sys2Proof.Machine
end

