-- ==== Sys2Proof/Machine/Ops.lean ====
section
/-! DEFINITION. The named operations over registers, memory and ports: the register pairs (10_state.md R20), the access
primitives (20_memory.md R83 to R89), the stack (R88), taking an interrupt and returning from one (60_exceptions.md R605 to
R617). -/

namespace Sys2Proof.Machine

/-! ## Register pairs (10_state.md R20) -/

def State.af (s : State) : Word := pair s.a s.f
def State.bc (s : State) : Word := pair s.b s.c
def State.de (s : State) : Word := pair s.d s.e
def State.hl (s : State) : Word := pair s.h s.l

def State.setAF (s : State) (v : Word) : State := { s with a := hi8 v, f := lo8 v }
def State.setBC (s : State) (v : Word) : State := { s with b := hi8 v, c := lo8 v }
def State.setDE (s : State) (v : Word) : State := { s with d := hi8 v, e := lo8 v }
def State.setHL (s : State) (v : Word) : State := { s with h := hi8 v, l := lo8 v }

/-- The instruction counts as flag-modifying: its rule says `Q: set` (30_encoding.md R130). -/
def State.setQ (s : State) : State := { s with qCur := true }

/-! ## The history (20_memory.md R98) -/

/-- Records an event. -/
def State.emit (s : State) (e : Event) : State := { s with history := e :: s.history }

/-! ## Memory (20_memory.md R83 to R88) -/

/-- The byte at address `a`, with no event: what any read of `a` returns. -/
def State.peek (s : State) (a : Word) : Byte := s.mem.read a

/-- `FetchOp(a)` (R83): the byte, and the state with the fetch recorded. -/
def State.fetchOp (s : State) (a : Word) : Byte × State := (s.peek a, s.emit (.fetch a (s.peek a)))

/-- `MemRead(a, 1)` (R84). -/
def State.memRead (s : State) (a : Word) : Byte × State := (s.peek a, s.emit (.read a (s.peek a)))

/-- `MemWrite(a, 1, v)` (R84). -/
def State.memWrite (s : State) (a : Word) (v : Byte) : State :=
  { s with mem := s.mem.write a v, history := .write a v :: s.history }

/-- `MemRead(a, 2)`: low byte at a, then high byte at a + 1 (R85). -/
def State.memRead16 (s : State) (a : Word) : Word × State :=
  let (lo, s) := s.memRead a
  let (hi, s) := s.memRead (a + 1#16)
  (pair hi lo, s)

/-- `MemWrite(a, 2, v)`: low byte to a first, then high byte to a + 1 (R85). -/
def State.memWrite16 (s : State) (a v : Word) : State :=
  (s.memWrite a (lo8 v)).memWrite (a + 1#16) (hi8 v)

/-- `Push16(v)`: the high byte to SP - 1 first, then the low byte to SP - 2 (R88). After a full reset, with SP 0xFFFF, these
are 0xFFFE and 0xFFFD; 70_reset_and_hazards.md R710 names other addresses (DEDUCED; log entry 21). -/
def State.push16 (s : State) (v : Word) : State :=
  let s := { s with sp := s.sp - 1#16 }
  let s := s.memWrite s.sp (hi8 v)
  let s := { s with sp := s.sp - 1#16 }
  s.memWrite s.sp (lo8 v)

/-- `Pop16()` (R88). -/
def State.pop16 (s : State) : Word × State :=
  let (lo, s) := s.memRead s.sp
  let s := { s with sp := s.sp + 1#16 }
  let (hi, s) := s.memRead s.sp
  let s := { s with sp := s.sp + 1#16 }
  (pair hi lo, s)

/-- `Imm8()`: an operand byte at PC; PC moves past it (00_scope.md R12). -/
def State.imm8 (s : State) : Byte × State :=
  let (v, s) := s.memRead s.pc
  (v, { s with pc := s.pc + 1#16 })

/-- Fetches `n` operand bytes, in order. The decoder has read their values (log entry 11). -/
def State.fetchOperands (s : State) (n : Nat) : State :=
  match n with
  | 0 => s
  | n + 1 => s.imm8.2.fetchOperands n

/-! ## The refresh counter (10_state.md R26) -/

/-- Reading R: bit 7 is Rhi, bits 6..0 are R7. -/
def State.r (s : State) : Byte := BitVec.ofBool s.rhi ++ s.r7

/-- `IncR`: bit 7 does not change. -/
def State.incR (s : State) : State := { s with r7 := s.r7 + 1#7 }

/-! ## Ports (20_memory.md R89) -/

/-- `PortRead(p)`: a byte the environment supplies. The host's next supplied byte where there is one, else a free draw. -/
def State.portRead (s : State) (p : Word) : Byte × State :=
  match s.portInputs with
  | v :: rest => (v, { s with portInputs := rest, history := .portRead p v :: s.history })
  | [] =>
    let v := Config.portIn s.portDraws p
    (v, { s with portDraws := s.portDraws + 1, history := .portRead p v :: s.history })

/-- `PortWrite(p, v)`: an event, and no effect on memory or on the core. -/
def State.portWrite (s : State) (p : Word) (v : Byte) : State := s.emit (.portWrite p v)

/-! ## Breakpoints (30_encoding.md R132, R137; 60_exceptions.md R630) -/

/-- `bpHook(a, op)`: the table's first entry for the address and the opcode, else the opcode itself. -/
def hookResult (table : List HookEntry) (a : Word) (op : Byte) : Byte :=
  match table with
  | [] => op
  | e :: rest => if e.addr = a ∧ e.op = op then e.subst else hookResult rest a op

/-- The opcode to decode for byte `op` at address `a`: the hook's answer at a breakpoint, else `op`. -/
def State.consultBp (s : State) (a : Word) (op : Byte) : Byte × State :=
  if s.bp.contains a then
    (hookResult s.bpHook a op, s.emit (.breakpoint a op (hookResult s.bpHook a op)))
  else (op, s)

/-! ## Taking an interrupt (60_exceptions.md R606 to R615) -/

/-- Wake from HALT: PC moves past the HALT opcode (R609). -/
def State.wake (s : State) : State :=
  if s.halted then { s with halted := false, pc := s.pc + 1#16 } else s

/-- What both acceptances do: wake, IncR, the enable latches, and the push of the return address, which is all that is
saved (R608, R609, R610, R611, R612). `iff2` is the new value of IFF2. -/
def State.enterInterrupt (s : State) (iff2 : Bool) : State :=
  let s := s.wake.incR
  let s := { s with iff1 := false, iff2 := iff2, qLast := false }
  s.push16 s.pc

/-- Ends an acceptance: control at `target`, MEMPTR the new PC (R611, R612). -/
def State.vectorTo (s : State) (target : Word) : State := { s with pc := target, memptr := target }

/-- `AcceptNMI()`: the discarded fetch at the return address, then the entry; IFF2 is kept (R611). -/
def State.acceptNMI (s : State) : State :=
  let (_, s) := s.fetchOp s.pc
  (s.enterInterrupt s.iff2).vectorTo Config.nmiVector

/-- The acknowledge byte: the host's next supplied byte where there is one, else a free draw (R612). -/
def State.drawAck (s : State) : Byte × State :=
  match s.ackInputs with
  | v :: rest => (v, { s with ackInputs := rest, history := .intAck v :: s.history })
  | [] =>
    let v := Config.intAckByte s.ackDraws
    (v, { s with ackDraws := s.ackDraws + 1, history := .intAck v :: s.history })

/-- `AcceptINT(ack)`: draw, entry with both latches cleared, then the mode's target (R612 to R615). -/
def State.acceptINT (s : State) : Result :=
  let (ack, s) := s.drawAck
  let s := s.enterInterrupt false
  match s.im with
  | .im0 =>
    if ack &&& 0xC7#8 = 0xC7#8 then .next (s.vectorTo ((ack &&& 0x38#8).setWidth 16)) else .fault (.im0NotRST ack)
  | .im1 => .next (s.vectorTo Config.im1Vector)
  | .im2 =>
    let (target, s) := s.memRead16 (pair s.i ack)
    .next (s.vectorTo target)

/-- `SampleInterrupts()`: NMI first, then the maskable line where IFF1 is set and no enable delay runs (R606, R607). -/
def State.sampleInterrupts (s : State) : Result :=
  if s.nmiPending then .next ({ s with nmiPending := false }).acceptNMI
  else if s.iff1 && !s.pendingEI && s.intLine then s.acceptINT
  else .next s

/-- Return from an interrupt handler, RETN and RETI alike: pop PC, MEMPTR the popped address, IFF2 copied to IFF1
(48_jump_call_return.md R511, R512; R616). -/
def State.returnFromInterrupt (s : State) : State :=
  let (target, s) := s.pop16
  { s with pc := target, memptr := target, iff1 := s.iff2 }

/-! ## The instruction boundary (30_encoding.md R138) -/

/-- The boundary before interrupts are sampled: Q tracking, then the trace notification. -/
def State.boundary (s : State) : State :=
  let s := { s with qLast := s.qCur, qCur := false }
  if s.traceEnabled then s.emit .boundary else s

/-- Steps (5) and (6) of `Step()` (R130): nothing while a prefix is pending, else the boundary and the sampling. -/
def State.endStep (s : State) : Result :=
  if s.pfx = .noPfx then s.boundary.sampleInterrupts else .next s

end Sys2Proof.Machine
end

