-- ==== Sys2Proof/Machine/Operands.lean ====
section
/-! DEFINITION. The operand forms: registers, pairs, index registers and their halves, and the (XY+d) operand
(30_encoding.md R112, R113; 43_alu8.md R318). -/

namespace Sys2Proof.Machine

/-- Reads `reg8[k]` (R112). -/
def State.reg8 (s : State) (r : Reg8) : Byte :=
  match r with
  | .b => s.b | .c => s.c | .d => s.d | .e => s.e | .h => s.h | .l => s.l | .a => s.a

/-- Writes `reg8[k]` (R112). -/
def State.setReg8 (s : State) (r : Reg8) (v : Byte) : State :=
  match r with
  | .b => { s with b := v }
  | .c => { s with c := v }
  | .d => { s with d := v }
  | .e => { s with e := v }
  | .h => { s with h := v }
  | .l => { s with l := v }
  | .a => { s with a := v }

/-- Reads `rp[p]` (R112). -/
def State.rp (s : State) (p : Rp) : Word :=
  match p with
  | .bc => s.bc | .de => s.de | .hl => s.hl | .sp => s.sp

/-- Writes `rp[p]` (R112). -/
def State.setRp (s : State) (p : Rp) (v : Word) : State :=
  match p with
  | .bc => s.setBC v
  | .de => s.setDE v
  | .hl => s.setHL v
  | .sp => { s with sp := v }

/-- Reads `rp2[p]` (R112). -/
def State.rp2 (s : State) (p : Rp2) : Word :=
  match p with
  | .bc => s.bc | .de => s.de | .hl => s.hl | .af => s.af

/-- Writes `rp2[p]` (R112). -/
def State.setRp2 (s : State) (p : Rp2) (v : Word) : State :=
  match p with
  | .bc => s.setBC v
  | .de => s.setDE v
  | .hl => s.setHL v
  | .af => s.setAF v

/-- Reads XY (R136). -/
def State.index (s : State) (xy : IndexReg) : Word :=
  match xy with
  | .ix => s.ix | .iy => s.iy

/-- Writes XY. -/
def State.setIndex (s : State) (xy : IndexReg) (v : Word) : State :=
  match xy with
  | .ix => { s with ix := v }
  | .iy => { s with iy := v }

/-- Reads `rp'[p]` of `ADD XY,rp` (45_alu16.md R414). -/
def State.rpXy (s : State) (xy : IndexReg) (p : RpXy) : Word :=
  match p with
  | .bc => s.bc | .de => s.de | .xy => s.index xy | .sp => s.sp

/-- Reads XYH or XYL (10_state.md R22). -/
def State.half (s : State) (xy : IndexReg) (half : Half) : Byte :=
  match half with
  | .high => hi8 (s.index xy)
  | .low => lo8 (s.index xy)

/-- Writes XYH or XYL; the other half is unchanged (R22). -/
def State.setHalf (s : State) (xy : IndexReg) (half : Half) (v : Byte) : State :=
  match half with
  | .high => s.setIndex xy (pair v (lo8 (s.index xy)))
  | .low => s.setIndex xy (pair (hi8 (s.index xy)) v)

/-- Reads `reg8'[z]` of `LD XYH,r'` (40_load8.md R219). -/
def State.regXy (s : State) (xy : IndexReg) (r : RegXy) : Byte :=
  match r with
  | .b => s.b | .c => s.c | .d => s.d | .e => s.e
  | .xyh => s.half xy .high
  | .xyl => s.half xy .low
  | .a => s.a

/-- `EA(d) = (XY + sext_16(d)) mod 2^16` (R113). -/
def State.ea (s : State) (xy : IndexReg) (d : Byte) : Word := s.index xy + sext16 d

/-- Computes EA and leaves it in MEMPTR (43_alu8.md R318; 30_encoding.md R141). -/
def State.indexEA (s : State) (xy : IndexReg) (d : Byte) : Word × State :=
  (s.ea xy d, { s with memptr := s.ea xy d })

/-- The operand (HL) (R318). -/
def State.readAtHl (s : State) : Byte × State := s.memRead s.hl

/-- The operand (XY+d): MEMPTR is EA, then the byte at EA (R318). -/
def State.readAtXyD (s : State) (xy : IndexReg) (d : Byte) : Byte × State :=
  let (ea, s) := s.indexEA xy d
  s.memRead ea

/-- `PC <- PC + sext_16(e); MEMPTR <- PC` (48_jump_call_return.md R502). -/
def State.jumpRelative (s : State) (e : Byte) : State :=
  let target := s.pc + sext16 e
  { s with pc := target, memptr := target }

end Sys2Proof.Machine
end

