-- ==== Sys2Proof/Machine/Alu16.lean ====
section
/-! DEFINITION. 16-bit arithmetic (45_alu16.md R410 to R420). -/

namespace Sys2Proof.Machine

/-- `MEMPTR <- a + 1` and the flags of a 16-bit sum or difference with first operand `a` (R410 to R412). -/
def State.setF16 (s : State) (a : Word) (f : Byte) : State := { s with memptr := a + 1#16, f := f, qCur := true }

/-- `ADD HL,rp` (R413). -/
def execAddHlRp (rp : Rp) (s : State) : Result :=
  let o := add16 s.hl (s.rp rp) s.f
  .next ((s.setF16 s.hl o.f).setHL o.val)

/-- `ADD XY,rp` (R414). -/
def execAddXyRp (xy : IndexReg) (rp : RpXy) (s : State) : Result :=
  let o := add16 (s.index xy) (s.rpXy xy rp) s.f
  .next ((s.setF16 (s.index xy) o.f).setIndex xy o.val)

/-- `ADC HL,rp` (R415). -/
def execAdcHlRp (rp : Rp) (s : State) : Result :=
  let o := adc16 s.hl (s.rp rp) (flagC s.f)
  .next ((s.setF16 s.hl o.f).setHL o.val)

/-- `SBC HL,rp` (R416). -/
def execSbcHlRp (rp : Rp) (s : State) : Result :=
  let o := sbc16 s.hl (s.rp rp) (flagC s.f)
  .next ((s.setF16 s.hl o.f).setHL o.val)

/-- `INC rp` (R417). -/
def execIncRp (rp : Rp) (s : State) : Result := .next (s.setRp rp (s.rp rp + 1#16))

/-- `INC XY` (R418). -/
def execIncXy (xy : IndexReg) (s : State) : Result := .next (s.setIndex xy (s.index xy + 1#16))

/-- `DEC rp` (R419). -/
def execDecRp (rp : Rp) (s : State) : Result := .next (s.setRp rp (s.rp rp - 1#16))

/-- `DEC XY` (R420). -/
def execDecXy (xy : IndexReg) (s : State) : Result := .next (s.setIndex xy (s.index xy - 1#16))

end Sys2Proof.Machine
end

