-- ==== Sys2Proof/Machine/Alu8.lean ====
section
/-! DEFINITION. 8-bit arithmetic and logic, increment and decrement (43_alu8.md R310 to R367). -/

namespace Sys2Proof.Machine

/-- Writes a result to A and its flags to F; every instruction here has `Q: set`. -/
def State.setAF8 (s : State) (o : Out8) : State := { s with a := o.val, f := o.f, qCur := true }

/-- `A <- Add8(A, v, 0)` (R310). -/
def State.aluAdd (s : State) (v : Byte) : State := s.setAF8 (add8 s.a v false)

/-- `A <- Add8(A, v, F.C)` (R310). -/
def State.aluAdc (s : State) (v : Byte) : State := s.setAF8 (add8 s.a v (flagC s.f))

/-- `A <- Sub8(A, v, 0)` (R311). -/
def State.aluSub (s : State) (v : Byte) : State := s.setAF8 (sub8 s.a v false)

/-- `A <- Sub8(A, v, F.C)` (R311). -/
def State.aluSbc (s : State) (v : Byte) : State := s.setAF8 (sub8 s.a v (flagC s.f))

/-- `A <- And8(A, v)` (R313). -/
def State.aluAnd (s : State) (v : Byte) : State := s.setAF8 (and8 s.a v)

/-- `A <- Xor8(A, v)` (R314). -/
def State.aluXor (s : State) (v : Byte) : State := s.setAF8 (xor8 s.a v)

/-- `A <- Or8(A, v)` (R315). -/
def State.aluOr (s : State) (v : Byte) : State := s.setAF8 (or8 s.a v)

/-- `Cp8(A, v)`: A is not written (R312). -/
def State.aluCp (s : State) (v : Byte) : State := { s with f := cp8F s.a v, qCur := true }

/-- Writes F alone, with `Q: set`. -/
def State.setFQ (s : State) (f : Byte) : State := { s with f := f, qCur := true }

/-! ## ADD -/

/-- `ADD A,r` (R320). -/
def execAddAR (r : Reg8) (s : State) : Result := .next (s.aluAdd (s.reg8 r))

/-- `ADD A,n` (R321). -/
def execAddAN (n : Byte) (s : State) : Result := .next (s.aluAdd n)

/-- `ADD A,(HL)` (R322). -/
def execAddAAtHl (s : State) : Result :=
  let (v, s) := s.readAtHl
  .next (s.aluAdd v)

/-- `ADD A,(XY+d)` (R323). -/
def execAddAAtXyD (xy : IndexReg) (d : Byte) (s : State) : Result :=
  let (v, s) := s.readAtXyD xy d
  .next (s.aluAdd v)

/-- `ADD A,XYH / ADD A,XYL` (R324). -/
def execAddAXyHalf (xy : IndexReg) (half : Half) (s : State) : Result := .next (s.aluAdd (s.half xy half))

/-! ## ADC -/

/-- `ADC A,r` (R325). -/
def execAdcAR (r : Reg8) (s : State) : Result := .next (s.aluAdc (s.reg8 r))

/-- `ADC A,n` (R326). -/
def execAdcAN (n : Byte) (s : State) : Result := .next (s.aluAdc n)

/-- `ADC A,(HL)` (R327). -/
def execAdcAAtHl (s : State) : Result :=
  let (v, s) := s.readAtHl
  .next (s.aluAdc v)

/-- `ADC A,(XY+d)` (R328). -/
def execAdcAAtXyD (xy : IndexReg) (d : Byte) (s : State) : Result :=
  let (v, s) := s.readAtXyD xy d
  .next (s.aluAdc v)

/-- `ADC A,XYH / ADC A,XYL` (R329). -/
def execAdcAXyHalf (xy : IndexReg) (half : Half) (s : State) : Result := .next (s.aluAdc (s.half xy half))

/-! ## SUB -/

/-- `SUB r` (R330). -/
def execSubR (r : Reg8) (s : State) : Result := .next (s.aluSub (s.reg8 r))

/-- `SUB n` (R331). -/
def execSubN (n : Byte) (s : State) : Result := .next (s.aluSub n)

/-- `SUB (HL)` (R332). -/
def execSubAtHl (s : State) : Result :=
  let (v, s) := s.readAtHl
  .next (s.aluSub v)

/-- `SUB (XY+d)` (R333). -/
def execSubAtXyD (xy : IndexReg) (d : Byte) (s : State) : Result :=
  let (v, s) := s.readAtXyD xy d
  .next (s.aluSub v)

/-- `SUB XYH / SUB XYL` (R334). -/
def execSubXyHalf (xy : IndexReg) (half : Half) (s : State) : Result := .next (s.aluSub (s.half xy half))

/-! ## SBC -/

/-- `SBC A,r` (R335). -/
def execSbcAR (r : Reg8) (s : State) : Result := .next (s.aluSbc (s.reg8 r))

/-- `SBC A,n` (R336). -/
def execSbcAN (n : Byte) (s : State) : Result := .next (s.aluSbc n)

/-- `SBC A,(HL)` (R337). -/
def execSbcAAtHl (s : State) : Result :=
  let (v, s) := s.readAtHl
  .next (s.aluSbc v)

/-- `SBC A,(XY+d)` (R338). -/
def execSbcAAtXyD (xy : IndexReg) (d : Byte) (s : State) : Result :=
  let (v, s) := s.readAtXyD xy d
  .next (s.aluSbc v)

/-- `SBC A,XYH / SBC A,XYL` (R339). -/
def execSbcAXyHalf (xy : IndexReg) (half : Half) (s : State) : Result := .next (s.aluSbc (s.half xy half))

/-! ## AND -/

/-- `AND r` (R340). -/
def execAndR (r : Reg8) (s : State) : Result := .next (s.aluAnd (s.reg8 r))

/-- `AND n` (R341). -/
def execAndN (n : Byte) (s : State) : Result := .next (s.aluAnd n)

/-- `AND (HL)` (R342). -/
def execAndAtHl (s : State) : Result :=
  let (v, s) := s.readAtHl
  .next (s.aluAnd v)

/-- `AND (XY+d)` (R343). -/
def execAndAtXyD (xy : IndexReg) (d : Byte) (s : State) : Result :=
  let (v, s) := s.readAtXyD xy d
  .next (s.aluAnd v)

/-- `AND XYH / AND XYL` (R344). -/
def execAndXyHalf (xy : IndexReg) (half : Half) (s : State) : Result := .next (s.aluAnd (s.half xy half))

/-! ## XOR -/

/-- `XOR r` (R345). -/
def execXorR (r : Reg8) (s : State) : Result := .next (s.aluXor (s.reg8 r))

/-- `XOR n` (R346). -/
def execXorN (n : Byte) (s : State) : Result := .next (s.aluXor n)

/-- `XOR (HL)` (R347). -/
def execXorAtHl (s : State) : Result :=
  let (v, s) := s.readAtHl
  .next (s.aluXor v)

/-- `XOR (XY+d)` (R348). -/
def execXorAtXyD (xy : IndexReg) (d : Byte) (s : State) : Result :=
  let (v, s) := s.readAtXyD xy d
  .next (s.aluXor v)

/-- `XOR XYH / XOR XYL` (R349). -/
def execXorXyHalf (xy : IndexReg) (half : Half) (s : State) : Result := .next (s.aluXor (s.half xy half))

/-! ## OR -/

/-- `OR r` (R350). -/
def execOrR (r : Reg8) (s : State) : Result := .next (s.aluOr (s.reg8 r))

/-- `OR n` (R351). -/
def execOrN (n : Byte) (s : State) : Result := .next (s.aluOr n)

/-- `OR (HL)` (R352). -/
def execOrAtHl (s : State) : Result :=
  let (v, s) := s.readAtHl
  .next (s.aluOr v)

/-- `OR (XY+d)` (R353). -/
def execOrAtXyD (xy : IndexReg) (d : Byte) (s : State) : Result :=
  let (v, s) := s.readAtXyD xy d
  .next (s.aluOr v)

/-- `OR XYH / OR XYL` (R354). -/
def execOrXyHalf (xy : IndexReg) (half : Half) (s : State) : Result := .next (s.aluOr (s.half xy half))

/-! ## CP -/

/-- `CP r` (R355). -/
def execCpR (r : Reg8) (s : State) : Result := .next (s.aluCp (s.reg8 r))

/-- `CP n` (R356). -/
def execCpN (n : Byte) (s : State) : Result := .next (s.aluCp n)

/-- `CP (HL)` (R357). -/
def execCpAtHl (s : State) : Result :=
  let (v, s) := s.readAtHl
  .next (s.aluCp v)

/-- `CP (XY+d)` (R358). -/
def execCpAtXyD (xy : IndexReg) (d : Byte) (s : State) : Result :=
  let (v, s) := s.readAtXyD xy d
  .next (s.aluCp v)

/-- `CP XYH / CP XYL` (R359). -/
def execCpXyHalf (xy : IndexReg) (half : Half) (s : State) : Result := .next (s.aluCp (s.half xy half))

/-! ## INC -/

/-- `INC r` (R360). -/
def execIncR (r : Reg8) (s : State) : Result :=
  let o := inc8 (s.reg8 r) s.f
  .next ((s.setReg8 r o.val).setFQ o.f)

/-- `INC (HL)` (R361). -/
def execIncAtHl (s : State) : Result :=
  let (v, s) := s.readAtHl
  let o := inc8 v s.f
  .next ((s.memWrite s.hl o.val).setFQ o.f)

/-- `INC (XY+d)` (R362). -/
def execIncAtXyD (xy : IndexReg) (d : Byte) (s : State) : Result :=
  let (v, s) := s.readAtXyD xy d
  let o := inc8 v s.f
  .next ((s.memWrite s.memptr o.val).setFQ o.f)

/-- `INC XYH / INC XYL`: no carry between the halves (R363). -/
def execIncXyHalf (xy : IndexReg) (half : Half) (s : State) : Result :=
  let o := inc8 (s.half xy half) s.f
  .next ((s.setHalf xy half o.val).setFQ o.f)

/-! ## DEC -/

/-- `DEC r` (R364). -/
def execDecR (r : Reg8) (s : State) : Result :=
  let o := dec8 (s.reg8 r) s.f
  .next ((s.setReg8 r o.val).setFQ o.f)

/-- `DEC (HL)` (R365). -/
def execDecAtHl (s : State) : Result :=
  let (v, s) := s.readAtHl
  let o := dec8 v s.f
  .next ((s.memWrite s.hl o.val).setFQ o.f)

/-- `DEC (XY+d)` (R366). -/
def execDecAtXyD (xy : IndexReg) (d : Byte) (s : State) : Result :=
  let (v, s) := s.readAtXyD xy d
  let o := dec8 v s.f
  .next ((s.memWrite s.memptr o.val).setFQ o.f)

/-- `DEC XYH / DEC XYL`: no carry between the halves (R367). -/
def execDecXyHalf (xy : IndexReg) (half : Half) (s : State) : Result :=
  let o := dec8 (s.half xy half) s.f
  .next ((s.setHalf xy half o.val).setFQ o.f)

end Sys2Proof.Machine
end

