-- ==== Sys2Proof/Machine/Bit.lean ====
section
/-! DEFINITION. Bit test, reset and set (47_bit.md R480 to R490). -/

namespace Sys2Proof.Machine

/-- `v <- MemRead(a, 1); MemWrite(a, 1, v & ~(1 << b))`, with the byte written (R484). -/
def State.resAt (s : State) (b : BitVec 3) (a : Word) : Byte × State :=
  let (v, s) := s.memRead a
  (resBit b v, s.memWrite a (resBit b v))

/-- `v <- MemRead(a, 1); MemWrite(a, 1, v | (1 << b))`, with the byte written (R488). -/
def State.setAt (s : State) (b : BitVec 3) (a : Word) : Byte × State :=
  let (v, s) := s.memRead a
  (setBit b v, s.memWrite a (setBit b v))

/-- `BIT b,r`: Y and X from the tested register (R480). -/
def execBitR (b : BitVec 3) (r : Reg8) (s : State) : Result :=
  .next (s.setFQ (bitF b (s.reg8 r) (s.reg8 r) s.f))

/-- `BIT b,(HL)`: Y and X from the high byte of MEMPTR (R481). -/
def execBitAtHl (b : BitVec 3) (s : State) : Result :=
  let (v, s) := s.readAtHl
  .next (s.setFQ (bitF b v (hi8 s.memptr) s.f))

/-- `BIT b,(XY+d)`: Y and X from the high byte of EA, which MEMPTR holds; no write-back, no copy (R482). -/
def execBitAtXyD (xy : IndexReg) (d : Byte) (b : BitVec 3) (s : State) : Result :=
  let (ea, s) := s.indexEA xy d
  let (v, s) := s.memRead ea
  .next (s.setFQ (bitF b v (hi8 ea) s.f))

/-- `RES b,r` (R483). -/
def execResR (b : BitVec 3) (r : Reg8) (s : State) : Result := .next (s.setReg8 r (resBit b (s.reg8 r)))

/-- `RES b,(HL)` (R484). -/
def execResAtHl (b : BitVec 3) (s : State) : Result := .next (s.resAt b s.hl).2

/-- `RES b,(XY+d)` (R485). -/
def execResAtXyD (xy : IndexReg) (d : Byte) (b : BitVec 3) (s : State) : Result :=
  let (ea, s) := s.indexEA xy d
  .next (s.resAt b ea).2

/-- `RES b,(XY+d),r`: the copy goes to the real H or L (R486). -/
def execResAtXyDR (xy : IndexReg) (d : Byte) (b : BitVec 3) (r : Reg8) (s : State) : Result :=
  let (ea, s) := s.indexEA xy d
  let (t, s) := s.resAt b ea
  .next (s.setReg8 r t)

/-- `SET b,r` (R487). -/
def execSetR (b : BitVec 3) (r : Reg8) (s : State) : Result := .next (s.setReg8 r (setBit b (s.reg8 r)))

/-- `SET b,(HL)` (R488). -/
def execSetAtHl (b : BitVec 3) (s : State) : Result := .next (s.setAt b s.hl).2

/-- `SET b,(XY+d)` (R489). -/
def execSetAtXyD (xy : IndexReg) (d : Byte) (b : BitVec 3) (s : State) : Result :=
  let (ea, s) := s.indexEA xy d
  .next (s.setAt b ea).2

/-- `SET b,(XY+d),r` (R490). -/
def execSetAtXyDR (xy : IndexReg) (d : Byte) (b : BitVec 3) (r : Reg8) (s : State) : Result :=
  let (ea, s) := s.indexEA xy d
  let (t, s) := s.setAt b ea
  .next (s.setReg8 r t)

end Sys2Proof.Machine
end

