-- ==== Sys2Proof/Machine/ExchangeBlock.lean ====
section
/-! DEFINITION. The exchanges and the sixteen block instructions (42_exchange_block.md R270 to R296). -/

namespace Sys2Proof.Machine

/-! ## Exchanges -/

/-- `EX AF,AF'`; counts for Q only under `popAfSetsQ` (R270). -/
def execExAfAf (s : State) : Result :=
  .next { s with a := s.altA, f := s.altF, altA := s.a, altF := s.f, qCur := s.qCur || s.params.popAfSetsQ }

/-- `EXX` (R271). -/
def execExx (s : State) : Result :=
  .next { s with
    b := s.altB, c := s.altC, d := s.altD, e := s.altE, h := s.altH, l := s.altL
    altB := s.b, altC := s.c, altD := s.d, altE := s.e, altH := s.h, altL := s.l }

/-- `EX DE,HL` (R272). -/
def execExDeHl (s : State) : Result := .next { s with d := s.h, e := s.l, h := s.d, l := s.e }

/-- Exchanges `v` with the word at SP: reads SP and SP + 1, writes SP + 1 and SP; MEMPTR is the word read (R273). -/
def State.exchangeAtSp (s : State) (v : Word) : Word × State :=
  let (t, s) := s.memRead16 s.sp
  let s := s.memWrite (s.sp + 1#16) (hi8 v)
  let s := s.memWrite s.sp (lo8 v)
  (t, { s with memptr := t })

/-- `EX (SP),HL` (R273). -/
def execExAtSpHl (s : State) : Result :=
  let (t, s) := s.exchangeAtSp s.hl
  .next (s.setHL t)

/-- `EX (SP),XY` (R274). -/
def execExAtSpXy (xy : IndexReg) (s : State) : Result :=
  let (t, s) := s.exchangeAtSp (s.index xy)
  .next (s.setIndex xy t)

/-! ## Block instructions: common structure (R279, R280) -/

/-- The direction of a block instruction: `inc` is +1 or -1 (R279). -/
def blockStep (decrement : Bool) : Word := if decrement then 0xFFFF#16 else 0x0001#16

/-- The repeat step: PC back by 2, MEMPTR the rewound PC plus 1, and Y and X from that PC under `blockRepeatXYFromPC`
(R280). -/
def State.repeatUnless (s : State) (done : Bool) : State :=
  if done then s
  else
    let pc := s.pc - 2#16
    { s with pc := pc, memptr := pc + 1#16, f := if s.params.blockRepeatXYFromPC then yxFromPC s.f pc else s.f }

/-- The single form of LDI and LDD (R281, R282). -/
def State.blockLoad (s : State) (decrement : Bool) : State :=
  let (t, s) := s.readAtHl
  let s := s.memWrite s.de t
  let s := s.setHL (s.hl + blockStep decrement)
  let s := s.setDE (s.de + blockStep decrement)
  let s := s.setBC (s.bc - 1#16)
  { s with f := blockLoadF s.a t s.f s.bc, qCur := true }

/-- The single form of CPI and CPD, with `r = A - t` (R285, R286). -/
def State.blockCompare (s : State) (decrement : Bool) : Byte × State :=
  let (t, s) := s.readAtHl
  let s := s.setHL (s.hl + blockStep decrement)
  let s := s.setBC (s.bc - 1#16)
  (s.a - t, { s with memptr := s.memptr + blockStep decrement, f := blockCompareF s.a t s.f s.bc, qCur := true })

/-- The single form of INI and IND: the port and MEMPTR use BC before B is decremented (R289, R290). -/
def State.blockIn (s : State) (decrement : Bool) : State :=
  let (t, s) := s.portRead s.bc
  let s := { s with memptr := s.bc + blockStep decrement, b := s.b - 1#8 }
  let s := s.memWrite s.hl t
  let s := s.setHL (s.hl + blockStep decrement)
  let k := t.toNat + (s.c + lo8 (blockStep decrement)).toNat
  { s with f := blockIoF s.b t k, qCur := true }

/-- The single form of OUTI and OUTD: the port and MEMPTR use BC after B is decremented, k the L after HL moved (R293,
R294). -/
def State.blockOut (s : State) (decrement : Bool) : State :=
  let (t, s) := s.readAtHl
  let s := { s with b := s.b - 1#8 }
  let s := s.portWrite s.bc t
  let s := { s with memptr := s.bc + blockStep decrement }
  let s := s.setHL (s.hl + blockStep decrement)
  let k := t.toNat + s.l.toNat
  { s with f := blockIoF s.b t k, qCur := true }

/-- A block load, then the repeat step with `done = (BC = 0)` (R283, R284). -/
def State.blockLoadRepeat (s : State) (decrement : Bool) : State :=
  let s := s.blockLoad decrement
  s.repeatUnless (s.bc = 0#16)

/-- A block compare, then the repeat step with `done = (BC = 0 or r = 0)` (R287, R288). -/
def State.blockCompareRepeat (s : State) (decrement : Bool) : State :=
  let (r, s) := s.blockCompare decrement
  s.repeatUnless (s.bc = 0#16 || r = 0#8)

/-- A block input, then the repeat step with `done = (B = 0)` (R291, R292). -/
def State.blockInRepeat (s : State) (decrement : Bool) : State :=
  let s := s.blockIn decrement
  s.repeatUnless (s.b = 0#8)

/-- A block output, then the repeat step with `done = (B = 0)` (R295, R296). -/
def State.blockOutRepeat (s : State) (decrement : Bool) : State :=
  let s := s.blockOut decrement
  s.repeatUnless (s.b = 0#8)

/-! ## The sixteen block instructions -/

/-- `LDI` (R281). -/
def execLdi (s : State) : Result := .next (s.blockLoad false)

/-- `LDD` (R282). -/
def execLdd (s : State) : Result := .next (s.blockLoad true)

/-- `LDIR` (R283). -/
def execLdir (s : State) : Result := .next (s.blockLoadRepeat false)

/-- `LDDR` (R284). -/
def execLddr (s : State) : Result := .next (s.blockLoadRepeat true)

/-- `CPI` (R285). -/
def execCpi (s : State) : Result := .next (s.blockCompare false).2

/-- `CPD` (R286). -/
def execCpd (s : State) : Result := .next (s.blockCompare true).2

/-- `CPIR` (R287). -/
def execCpir (s : State) : Result := .next (s.blockCompareRepeat false)

/-- `CPDR` (R288). -/
def execCpdr (s : State) : Result := .next (s.blockCompareRepeat true)

/-- `INI` (R289). -/
def execIni (s : State) : Result := .next (s.blockIn false)

/-- `IND` (R290). -/
def execInd (s : State) : Result := .next (s.blockIn true)

/-- `INIR` (R291). -/
def execInir (s : State) : Result := .next (s.blockInRepeat false)

/-- `INDR` (R292). -/
def execIndr (s : State) : Result := .next (s.blockInRepeat true)

/-- `OUTI` (R293). -/
def execOuti (s : State) : Result := .next (s.blockOut false)

/-- `OUTD` (R294). -/
def execOutd (s : State) : Result := .next (s.blockOut true)

/-- `OTIR` (R295). -/
def execOtir (s : State) : Result := .next (s.blockOutRepeat false)

/-- `OTDR` (R296). -/
def execOtdr (s : State) : Result := .next (s.blockOutRepeat true)

end Sys2Proof.Machine
end

