-- ==== Sys2Proof/Machine/GeneralControl.lean ====
section
/-! DEFINITION. General-purpose arithmetic and CPU control (44_general_control.md R380 to R392). -/

namespace Sys2Proof.Machine

/-- `DAA` (R380). -/
def execDaa (s : State) : Result := .next (s.setAF8 (daa8 s.a s.f))

/-- `CPL` (R381). -/
def execCpl (s : State) : Result := .next (s.setAF8 (cpl8 s.a s.f))

/-- `NEG`: `A <- Sub8(0, A, 0)` (R382). -/
def execNeg (s : State) : Result := .next (s.setAF8 (sub8 0x00#8 s.a false))

/-- `CCF`: reads qLast (R383; 90_conflicts.md C3). -/
def execCcf (s : State) : Result := .next (s.setFQ (ccfF s.a s.f s.qLast))

/-- `SCF`: reads qLast (R384). -/
def execScf (s : State) : Result := .next (s.setFQ (scfF s.a s.f s.qLast))

/-- `NOP` (R385). -/
def execNop (s : State) : Result := .next s

/-- `HALT`: PC back to the HALT byte, so that every later step fetches and runs it again (R386). -/
def execHalt (s : State) : Result := .next { s with pc := s.pc - 1#16, halted := true }

/-- `DI` (R387). -/
def execDi (s : State) : Result := .next { s with iff1 := false, iff2 := false }

/-- `EI` (R388). -/
def execEi (s : State) : Result := .next { s with iff1 := true, iff2 := true, pendingEI := true }

/-- `IM 0` (R389). -/
def execIm0 (s : State) : Result := .next { s with im := .im0 }

/-- `IM 1` (R390). -/
def execIm1 (s : State) : Result := .next { s with im := .im1 }

/-- `IM 2` (R391). -/
def execIm2 (s : State) : Result := .next { s with im := .im2 }

/-- ED no-operation (R392). -/
def execNopEd (s : State) : Result := .next s

end Sys2Proof.Machine
end

