-- ==== Sys2Proof/Machine/InputOutput.lean ====
section
/-! DEFINITION. Input and output (49_io.md R530 to R535); the block forms are in ExchangeBlock.lean. -/

namespace Sys2Proof.Machine

/-- `v <- PortRead(BC)` with the flags of R531 and `MEMPTR <- BC + 1`. -/
def State.inFromC (s : State) : Byte × State :=
  let (v, s) := s.portRead s.bc
  (v, { s with f := szpKeepC v s.f, memptr := s.bc + 1#16, qCur := true })

/-- `PortWrite(BC, v); MEMPTR <- BC + 1` (R534). -/
def State.outToC (s : State) (v : Byte) : State := { s.portWrite s.bc v with memptr := s.bc + 1#16 }

/-- `IN A,(n)`: the port uses A before it is overwritten; no flag is written (R530). -/
def execInAAtN (n : Byte) (s : State) : Result :=
  let port := pair s.a n
  let (v, s) := s.portRead port
  .next { s with a := v, memptr := port + 1#16 }

/-- `IN r,(C)`: BC is read before the register is written (R531). -/
def execInRC (r : Reg8) (s : State) : Result :=
  let (v, s) := s.inFromC
  .next (s.setReg8 r v)

/-- `IN (C)`: the byte sets the flags and is discarded (R532). -/
def execInC (s : State) : Result := .next s.inFromC.2

/-- `OUT (n),A`: MEMPTR is A and n + 1 with no carry between them (R533). -/
def execOutAtNA (n : Byte) (s : State) : Result :=
  .next { s.portWrite (pair s.a n) s.a with memptr := pair s.a (n + 1#8) }

/-- `OUT (C),r` (R534). -/
def execOutCR (r : Reg8) (s : State) : Result := .next (s.outToC (s.reg8 r))

/-- `OUT (C),0`: the parameter `outC0Value` (R535). -/
def execOutC0 (s : State) : Result := .next (s.outToC s.params.outC0Value)

end Sys2Proof.Machine
end

