-- ==== Sys2Proof/Machine/JumpCallReturn.lean ====
section
/-! DEFINITION. Jumps, calls, returns and restarts (48_jump_call_return.md R500 to R513). -/

namespace Sys2Proof.Machine

/-- `Push16(PC); PC <- target` (R507). -/
def State.callTo (s : State) (target : Word) : State := { s.push16 s.pc with pc := target }

/-- `PC <- Pop16(); MEMPTR <- PC` (R509). -/
def State.return (s : State) : State :=
  let (target, s) := s.pop16
  { s with pc := target, memptr := target }

/-- `JP nn` (R500). -/
def execJpNn (nn : Word) (s : State) : Result := .next { s with memptr := nn, pc := nn }

/-- `JP cc,nn`: MEMPTR is nn whether or not the jump is taken (R501). -/
def execJpCcNn (cc : Cond) (nn : Word) (s : State) : Result :=
  let s := { s with memptr := nn }
  .next (if condHolds cc s.f then { s with pc := nn } else s)

/-- `JR e` (R502). -/
def execJr (e : Byte) (s : State) : Result := .next (s.jumpRelative e)

/-- `JR cc,e`: MEMPTR unchanged when not taken (R503). -/
def execJrCc (cc : Cond) (e : Byte) (s : State) : Result :=
  .next (if condHolds cc s.f then s.jumpRelative e else s)

/-- `JP (HL)`: the operand is HL itself (R504). -/
def execJpHl (s : State) : Result := .next { s with pc := s.hl }

/-- `JP (XY)` (R505). -/
def execJpXy (xy : IndexReg) (s : State) : Result := .next { s with pc := s.index xy }

/-- `DJNZ e`: the decrement does not touch F (R506). -/
def execDjnz (e : Byte) (s : State) : Result :=
  let s := { s with b := s.b - 1#8 }
  .next (if s.b = 0#8 then s else s.jumpRelative e)

/-- `CALL nn` (R507). -/
def execCallNn (nn : Word) (s : State) : Result := .next (({ s with memptr := nn }).callTo nn)

/-- `CALL cc,nn`: MEMPTR is nn whether or not the call is taken (R508). -/
def execCallCcNn (cc : Cond) (nn : Word) (s : State) : Result :=
  let s := { s with memptr := nn }
  .next (if condHolds cc s.f then s.callTo nn else s)

/-- `RET` (R509). -/
def execRet (s : State) : Result := .next s.return

/-- `RET cc` (R510). -/
def execRetCc (cc : Cond) (s : State) : Result := .next (if condHolds cc s.f then s.return else s)

/-- `RETI`; in the core it differs from RETN only in encoding (R511). -/
def execReti (s : State) : Result := .next s.returnFromInterrupt

/-- `RETN` (R512). -/
def execRetn (s : State) : Result := .next s.returnFromInterrupt

/-- The target of `RST p`: `y * 8` (R513). -/
def rstTarget (p : BitVec 3) : Word := (p ++ 0#3).setWidth 16

/-- `RST p` (R513). -/
def execRst (p : BitVec 3) (s : State) : Result :=
  .next { s.callTo (rstTarget p) with memptr := rstTarget p }

end Sys2Proof.Machine
end

