-- ==== Sys2Proof/Machine/Load16.lean ====
section
/-! DEFINITION. The 16-bit loads, PUSH and POP (41_load16.md R240 to R253). -/

namespace Sys2Proof.Machine

/-- `MemRead(nn, 2)` with `MEMPTR <- nn + 1` (R242). -/
def State.loadWord (s : State) (nn : Word) : Word × State :=
  let (v, s) := s.memRead16 nn
  (v, { s with memptr := nn + 1#16 })

/-- `MemWrite(nn, 2, v); MEMPTR <- nn + 1` (R245). -/
def State.storeWord (s : State) (nn v : Word) : State :=
  { s.memWrite16 nn v with memptr := nn + 1#16 }

/-- `LD rp,nn` (R240). -/
def execLdRpNn (rp : Rp) (nn : Word) (s : State) : Result := .next (s.setRp rp nn)

/-- `LD XY,nn` (R241). -/
def execLdXyNn (xy : IndexReg) (nn : Word) (s : State) : Result := .next (s.setIndex xy nn)

/-- `LD HL,(nn)`, main table (R242). -/
def execLdHlAtNn (nn : Word) (s : State) : Result :=
  let (v, s) := s.loadWord nn
  .next (s.setHL v)

/-- `LD rp,(nn)`, ED forms (R243). -/
def execLdRpAtNn (rp : Rp) (nn : Word) (s : State) : Result :=
  let (v, s) := s.loadWord nn
  .next (s.setRp rp v)

/-- `LD XY,(nn)` (R244). -/
def execLdXyAtNn (xy : IndexReg) (nn : Word) (s : State) : Result :=
  let (v, s) := s.loadWord nn
  .next (s.setIndex xy v)

/-- `LD (nn),HL`, main table (R245). -/
def execLdAtNnHl (nn : Word) (s : State) : Result := .next (s.storeWord nn s.hl)

/-- `LD (nn),rp`, ED forms (R246). -/
def execLdAtNnRp (rp : Rp) (nn : Word) (s : State) : Result := .next (s.storeWord nn (s.rp rp))

/-- `LD (nn),XY` (R247). -/
def execLdAtNnXy (xy : IndexReg) (nn : Word) (s : State) : Result := .next (s.storeWord nn (s.index xy))

/-- `LD SP,HL` (R248). -/
def execLdSpHl (s : State) : Result := .next { s with sp := s.hl }

/-- `LD SP,XY` (R249). -/
def execLdSpXy (xy : IndexReg) (s : State) : Result := .next { s with sp := s.index xy }

/-- `PUSH rp2` (R250). -/
def execPushRp2 (rp : Rp2) (s : State) : Result := .next (s.push16 (s.rp2 rp))

/-- `PUSH XY` (R251). -/
def execPushXy (xy : IndexReg) (s : State) : Result := .next (s.push16 (s.index xy))

/-- `POP rp2`; POP AF writes all eight bits of F and counts for Q only under `popAfSetsQ` (R252). -/
def execPopRp2 (rp : Rp2) (s : State) : Result :=
  let (v, s) := s.pop16
  let s := s.setRp2 rp v
  .next { s with qCur := s.qCur || (rp = .af && s.params.popAfSetsQ) }

/-- `POP XY` (R253). -/
def execPopXy (xy : IndexReg) (s : State) : Result :=
  let (v, s) := s.pop16
  .next (s.setIndex xy v)

end Sys2Proof.Machine
end

