-- ==== Sys2Proof/Machine/Load8.lean ====
section
/-! DEFINITION. The 8-bit loads (40_load8.md R200 to R220). A meaning starts with PC already past the whole instruction
(log entry 11). -/

namespace Sys2Proof.Machine

/-- MEMPTR after a store of A through a pointer: high byte A, low byte of the pointer plus 1, no carry (R211). -/
def storeAMemptr (a : Byte) (ptr : Word) : Word := pair a (lo8 (ptr + 1#16))

/-- `A <- MemRead(ptr, 1); MEMPTR <- ptr + 1` (R208 to R210). -/
def State.loadAFrom (s : State) (ptr : Word) : State :=
  let (v, s) := s.memRead ptr
  { s with a := v, memptr := ptr + 1#16 }

/-- `MemWrite(ptr, 1, A); MEMPTR <- A : ((ptr + 1) mod 2^8)` (R211 to R213). -/
def State.storeATo (s : State) (ptr : Word) : State :=
  { s.memWrite ptr s.a with memptr := storeAMemptr s.a ptr }

/-- `A <- v` with the flags of `LD A,I` and `LD A,R`; PV is IFF2 and not (ldAirIntQuirk and intLine) (R214, R215). -/
def State.loadAFromIR (s : State) (v : Byte) : State :=
  { s with a := v, f := ldAirF v s.f (s.iff2 && !(s.params.ldAirIntQuirk && s.intLine)), qCur := true }

/-- `LD r,r'` (R200). -/
def execLdRR (dst src : Reg8) (s : State) : Result := .next (s.setReg8 dst (s.reg8 src))

/-- `LD r,n` (R201). -/
def execLdRN (r : Reg8) (n : Byte) (s : State) : Result := .next (s.setReg8 r n)

/-- `LD r,(HL)` (R202). -/
def execLdRAtHl (r : Reg8) (s : State) : Result :=
  let (v, s) := s.readAtHl
  .next (s.setReg8 r v)

/-- `LD r,(XY+d)`; H and L are the real H and L (R203). -/
def execLdRAtXyD (xy : IndexReg) (r : Reg8) (d : Byte) (s : State) : Result :=
  let (v, s) := s.readAtXyD xy d
  .next (s.setReg8 r v)

/-- `LD (HL),r` (R204). -/
def execLdAtHlR (r : Reg8) (s : State) : Result := .next (s.memWrite s.hl (s.reg8 r))

/-- `LD (XY+d),r`; H and L are the real H and L (R205). -/
def execLdAtXyDR (xy : IndexReg) (d : Byte) (r : Reg8) (s : State) : Result :=
  let (ea, s) := s.indexEA xy d
  .next (s.memWrite ea (s.reg8 r))

/-- `LD (HL),n` (R206). -/
def execLdAtHlN (n : Byte) (s : State) : Result := .next (s.memWrite s.hl n)

/-- `LD (XY+d),n` (R207). -/
def execLdAtXyDN (xy : IndexReg) (d n : Byte) (s : State) : Result :=
  let (ea, s) := s.indexEA xy d
  .next (s.memWrite ea n)

/-- `LD A,(BC)` (R208). -/
def execLdAAtBc (s : State) : Result := .next (s.loadAFrom s.bc)

/-- `LD A,(DE)` (R209). -/
def execLdAAtDe (s : State) : Result := .next (s.loadAFrom s.de)

/-- `LD A,(nn)` (R210). -/
def execLdAAtNn (nn : Word) (s : State) : Result := .next (s.loadAFrom nn)

/-- `LD (BC),A` (R211). -/
def execLdAtBcA (s : State) : Result := .next (s.storeATo s.bc)

/-- `LD (DE),A` (R212). -/
def execLdAtDeA (s : State) : Result := .next (s.storeATo s.de)

/-- `LD (nn),A` (R213). -/
def execLdAtNnA (nn : Word) (s : State) : Result := .next (s.storeATo nn)

/-- `LD A,I` (R214). -/
def execLdAI (s : State) : Result := .next (s.loadAFromIR s.i)

/-- `LD A,R`: R after this instruction's own fetches (R215). -/
def execLdAR (s : State) : Result := .next (s.loadAFromIR s.r)

/-- `LD I,A` (R216). -/
def execLdIA (s : State) : Result := .next { s with i := s.a }

/-- `LD R,A`: the one instruction that writes Rhi (R217). -/
def execLdRA (s : State) : Result := .next { s with r7 := s.a.extractLsb' 0 7, rhi := s.a.getLsbD 7 }

/-- `LD r,XYH` and `LD r,XYL` (R218). -/
def execLdRXyHalf (xy : IndexReg) (r : Reg8) (half : Half) (s : State) : Result := .next (s.setReg8 r (s.half xy half))

/-- `LD XYH,r'` and `LD XYL,r'` (R219). -/
def execLdXyHalfR (xy : IndexReg) (half : Half) (src : RegXy) (s : State) : Result :=
  .next (s.setHalf xy half (s.regXy xy src))

/-- `LD XYH,n` and `LD XYL,n` (R220). -/
def execLdXyHalfN (xy : IndexReg) (half : Half) (n : Byte) (s : State) : Result := .next (s.setHalf xy half n)

end Sys2Proof.Machine
end

