-- ==== Sys2Proof/Machine/RotateShift.lean ====
section
/-! DEFINITION. Rotates and shifts (46_rotate_shift.md R430 to R473). -/

namespace Sys2Proof.Machine

/-! ## Accumulator rotates (R430 to R433) -/

/-- Writes a rotated A with the flags of the accumulator rotates; `out` is the bit shifted out. -/
def State.rotateA (s : State) (v : Byte) (out : Bool) : State := { s with a := v, f := rotAF v s.f out, qCur := true }

/-- `RLCA` (R430). -/
def execRlca (s : State) : Result := .next (s.rotateA (shiftLeftIn s.a (s.a.getLsbD 7)) (s.a.getLsbD 7))

/-- `RRCA` (R431). -/
def execRrca (s : State) : Result := .next (s.rotateA (shiftRightIn s.a (s.a.getLsbD 0)) (s.a.getLsbD 0))

/-- `RLA` (R432). -/
def execRla (s : State) : Result := .next (s.rotateA (shiftLeftIn s.a (flagC s.f)) (s.a.getLsbD 7))

/-- `RRA` (R433). -/
def execRra (s : State) : Result := .next (s.rotateA (shiftRightIn s.a (flagC s.f)) (s.a.getLsbD 0))

/-! ## The four forms of a CB operation (R434) -/

/-- `reg8[z] <- Rot(y, reg8[z])` (R440). -/
def State.rotReg (s : State) (op : RotOp) (r : Reg8) : State :=
  let o := rot8 op (s.reg8 r) (flagC s.f)
  (s.setReg8 r o.val).setFQ o.f

/-- `v <- MemRead(a, 1); MemWrite(a, 1, Rot(y, v))`, with the result (R441). -/
def State.rotAt (s : State) (op : RotOp) (a : Word) : Byte × State :=
  let (v, s) := s.memRead a
  let o := rot8 op v (flagC s.f)
  (o.val, (s.memWrite a o.val).setFQ o.f)

/-- The operation on (HL) (R441). -/
def State.rotAtHl (s : State) (op : RotOp) : State := (s.rotAt op s.hl).2

/-- The operation on (XY+d) (R442; 30_encoding.md R141). -/
def State.rotAtXyD (s : State) (op : RotOp) (xy : IndexReg) (d : Byte) : State :=
  let (ea, s) := s.indexEA xy d
  (s.rotAt op ea).2

/-- The operation on (XY+d) with the result copied to a register, H and L the real ones (R443). -/
def State.rotAtXyDR (s : State) (op : RotOp) (xy : IndexReg) (d : Byte) (r : Reg8) : State :=
  let (ea, s) := s.indexEA xy d
  let (t, s) := s.rotAt op ea
  s.setReg8 r t

/-! ## RLC -/

/-- `RLC r` (R440). -/
def execRlcR (r : Reg8) (s : State) : Result := .next (s.rotReg .rlc r)

/-- `RLC (HL)` (R441). -/
def execRlcAtHl (s : State) : Result := .next (s.rotAtHl .rlc)

/-- `RLC (XY+d)` (R442). -/
def execRlcAtXyD (xy : IndexReg) (d : Byte) (s : State) : Result := .next (s.rotAtXyD .rlc xy d)

/-- `RLC (XY+d),r` (R443). -/
def execRlcAtXyDR (xy : IndexReg) (d : Byte) (r : Reg8) (s : State) : Result := .next (s.rotAtXyDR .rlc xy d r)

/-! ## RRC -/

/-- `RRC r` (R444). -/
def execRrcR (r : Reg8) (s : State) : Result := .next (s.rotReg .rrc r)

/-- `RRC (HL)` (R445). -/
def execRrcAtHl (s : State) : Result := .next (s.rotAtHl .rrc)

/-- `RRC (XY+d)` (R446). -/
def execRrcAtXyD (xy : IndexReg) (d : Byte) (s : State) : Result := .next (s.rotAtXyD .rrc xy d)

/-- `RRC (XY+d),r` (R447). -/
def execRrcAtXyDR (xy : IndexReg) (d : Byte) (r : Reg8) (s : State) : Result := .next (s.rotAtXyDR .rrc xy d r)

/-! ## RL -/

/-- `RL r` (R448). -/
def execRlR (r : Reg8) (s : State) : Result := .next (s.rotReg .rl r)

/-- `RL (HL)` (R449). -/
def execRlAtHl (s : State) : Result := .next (s.rotAtHl .rl)

/-- `RL (XY+d)` (R450). -/
def execRlAtXyD (xy : IndexReg) (d : Byte) (s : State) : Result := .next (s.rotAtXyD .rl xy d)

/-- `RL (XY+d),r` (R451). -/
def execRlAtXyDR (xy : IndexReg) (d : Byte) (r : Reg8) (s : State) : Result := .next (s.rotAtXyDR .rl xy d r)

/-! ## RR -/

/-- `RR r` (R452). -/
def execRrR (r : Reg8) (s : State) : Result := .next (s.rotReg .rr r)

/-- `RR (HL)` (R453). -/
def execRrAtHl (s : State) : Result := .next (s.rotAtHl .rr)

/-- `RR (XY+d)` (R454). -/
def execRrAtXyD (xy : IndexReg) (d : Byte) (s : State) : Result := .next (s.rotAtXyD .rr xy d)

/-- `RR (XY+d),r` (R455). -/
def execRrAtXyDR (xy : IndexReg) (d : Byte) (r : Reg8) (s : State) : Result := .next (s.rotAtXyDR .rr xy d r)

/-! ## SLA -/

/-- `SLA r` (R456). -/
def execSlaR (r : Reg8) (s : State) : Result := .next (s.rotReg .sla r)

/-- `SLA (HL)` (R457). -/
def execSlaAtHl (s : State) : Result := .next (s.rotAtHl .sla)

/-- `SLA (XY+d)` (R458). -/
def execSlaAtXyD (xy : IndexReg) (d : Byte) (s : State) : Result := .next (s.rotAtXyD .sla xy d)

/-- `SLA (XY+d),r` (R459). -/
def execSlaAtXyDR (xy : IndexReg) (d : Byte) (r : Reg8) (s : State) : Result := .next (s.rotAtXyDR .sla xy d r)

/-! ## SRA -/

/-- `SRA r` (R460). -/
def execSraR (r : Reg8) (s : State) : Result := .next (s.rotReg .sra r)

/-- `SRA (HL)` (R461). -/
def execSraAtHl (s : State) : Result := .next (s.rotAtHl .sra)

/-- `SRA (XY+d)` (R462). -/
def execSraAtXyD (xy : IndexReg) (d : Byte) (s : State) : Result := .next (s.rotAtXyD .sra xy d)

/-- `SRA (XY+d),r` (R463). -/
def execSraAtXyDR (xy : IndexReg) (d : Byte) (r : Reg8) (s : State) : Result := .next (s.rotAtXyDR .sra xy d r)

/-! ## SLL -/

/-- `SLL r` (R464). -/
def execSllR (r : Reg8) (s : State) : Result := .next (s.rotReg .sll r)

/-- `SLL (HL)` (R465). -/
def execSllAtHl (s : State) : Result := .next (s.rotAtHl .sll)

/-- `SLL (XY+d)` (R466). -/
def execSllAtXyD (xy : IndexReg) (d : Byte) (s : State) : Result := .next (s.rotAtXyD .sll xy d)

/-- `SLL (XY+d),r` (R467). -/
def execSllAtXyDR (xy : IndexReg) (d : Byte) (r : Reg8) (s : State) : Result := .next (s.rotAtXyDR .sll xy d r)

/-! ## SRL -/

/-- `SRL r` (R468). -/
def execSrlR (r : Reg8) (s : State) : Result := .next (s.rotReg .srl r)

/-- `SRL (HL)` (R469). -/
def execSrlAtHl (s : State) : Result := .next (s.rotAtHl .srl)

/-- `SRL (XY+d)` (R470). -/
def execSrlAtXyD (xy : IndexReg) (d : Byte) (s : State) : Result := .next (s.rotAtXyD .srl xy d)

/-- `SRL (XY+d),r` (R471). -/
def execSrlAtXyDR (xy : IndexReg) (d : Byte) (r : Reg8) (s : State) : Result := .next (s.rotAtXyDR .srl xy d r)

/-! ## Decimal digit rotates -/

/-- What RLD and RRD share: the new byte of (HL), the new A, MEMPTR and the flags from the new A (R472, R473). -/
def State.digitRotate (s : State) (newMem newA : Byte) : State :=
  let s := s.memWrite s.hl newMem
  { s with a := newA, memptr := s.hl + 1#16, f := szpKeepC newA s.f, qCur := true }

/-- The byte with high digit `hi` and low digit `lo`. -/
def digits (hi lo : BitVec 4) : Byte := hi ++ lo

/-- The high digit of a byte. -/
def highDigit (v : Byte) : BitVec 4 := v.extractLsb' 4 4

/-- The low digit of a byte. -/
def lowDigit (v : Byte) : BitVec 4 := v.extractLsb' 0 4

/-- `RLD` (R472). -/
def execRld (s : State) : Result :=
  let (t, s) := s.readAtHl
  .next (s.digitRotate (digits (lowDigit t) (lowDigit s.a)) (digits (highDigit s.a) (highDigit t)))

/-- `RRD` (R473). -/
def execRrd (s : State) : Result :=
  let (t, s) := s.readAtHl
  .next (s.digitRotate (digits (lowDigit s.a) (highDigit t)) (digits (highDigit s.a) (lowDigit t)))

end Sys2Proof.Machine
end

