-- ==== Sys2Proof/Machine/Prefixes.lean ====
section
/-! DEFINITION. The prefix rows (30_encoding.md R133, R136, R137, R140, R141) and the two sub-dispatchers they re-enter:
`execMain` for the DD/FD fallback and `execIndexCB` for CB after DD or FD. -/

namespace Sys2Proof.Machine

/-! ## Prefix bytes: a step that only records the prefix -/

/-- `prefix CB` (R133). -/
def execPrefixCb (s : State) : Result := .next { s with pfx := .cb }

/-- `prefix ED` (R133). -/
def execPrefixEd (s : State) : Result := .next { s with pfx := .ed }

/-- `prefix DD / FD` (R133). -/
def execPrefixXy (xy : IndexReg) (s : State) : Result := .next { s with pfx := xy.pfx }

/-- DD or FD after DD or FD: the new prefix replaces the old one (R136 (a), R140). -/
def execPrefixChain (_ second : IndexReg) (s : State) : Result := .next { s with pfx := second.pfx }

/-- ED after DD or FD: the index prefix is discarded (R136 (b)). -/
def execPrefixEdAfterXy (_ : IndexReg) (s : State) : Result := .next { s with pfx := .ed }

/-! ## The DD/FD fallback (R137) -/

/-- `ExecMain` on a decoded main-table entry (R150). `decodeMain` gives no other instruction, so the last arm is never
reached; it fails loudly (60_exceptions.md R600, R601; log entry 14). -/
def execMain (i : Instr) (s : State) : Result :=
  match i with
  | .nop => execNop s
  | .exAfAf => execExAfAf s
  | .djnz e => execDjnz e s
  | .jr e => execJr e s
  | .jrCc cc e => execJrCc cc e s
  | .ldRpNn rp nn => execLdRpNn rp nn s
  | .addHlRp rp => execAddHlRp rp s
  | .ldAtBcA => execLdAtBcA s
  | .ldAtDeA => execLdAtDeA s
  | .ldAtNnHl nn => execLdAtNnHl nn s
  | .ldAtNnA nn => execLdAtNnA nn s
  | .ldAAtBc => execLdAAtBc s
  | .ldAAtDe => execLdAAtDe s
  | .ldHlAtNn nn => execLdHlAtNn nn s
  | .ldAAtNn nn => execLdAAtNn nn s
  | .incRp rp => execIncRp rp s
  | .decRp rp => execDecRp rp s
  | .incR r => execIncR r s
  | .incAtHl => execIncAtHl s
  | .decR r => execDecR r s
  | .decAtHl => execDecAtHl s
  | .ldRN r n => execLdRN r n s
  | .ldAtHlN n => execLdAtHlN n s
  | .rlca => execRlca s
  | .rrca => execRrca s
  | .rla => execRla s
  | .rra => execRra s
  | .daa => execDaa s
  | .cpl => execCpl s
  | .scf => execScf s
  | .ccf => execCcf s
  | .halt => execHalt s
  | .ldRAtHl r => execLdRAtHl r s
  | .ldAtHlR r => execLdAtHlR r s
  | .ldRR dst src => execLdRR dst src s
  | .addAR r => execAddAR r s
  | .addAAtHl => execAddAAtHl s
  | .addAN n => execAddAN n s
  | .adcAR r => execAdcAR r s
  | .adcAAtHl => execAdcAAtHl s
  | .adcAN n => execAdcAN n s
  | .subR r => execSubR r s
  | .subAtHl => execSubAtHl s
  | .subN n => execSubN n s
  | .sbcAR r => execSbcAR r s
  | .sbcAAtHl => execSbcAAtHl s
  | .sbcAN n => execSbcAN n s
  | .andR r => execAndR r s
  | .andAtHl => execAndAtHl s
  | .andN n => execAndN n s
  | .xorR r => execXorR r s
  | .xorAtHl => execXorAtHl s
  | .xorN n => execXorN n s
  | .orR r => execOrR r s
  | .orAtHl => execOrAtHl s
  | .orN n => execOrN n s
  | .cpR r => execCpR r s
  | .cpAtHl => execCpAtHl s
  | .cpN n => execCpN n s
  | .retCc cc => execRetCc cc s
  | .popRp2 rp => execPopRp2 rp s
  | .ret => execRet s
  | .exx => execExx s
  | .jpHl => execJpHl s
  | .ldSpHl => execLdSpHl s
  | .exAtSpHl => execExAtSpHl s
  | .exDeHl => execExDeHl s
  | .di => execDi s
  | .ei => execEi s
  | .jpCcNn cc nn => execJpCcNn cc nn s
  | .jpNn nn => execJpNn nn s
  | .outAtNA n => execOutAtNA n s
  | .inAAtN n => execInAAtN n s
  | .callCcNn cc nn => execCallCcNn cc nn s
  | .pushRp2 rp => execPushRp2 rp s
  | .callNn nn => execCallNn nn s
  | .rst p => execRst p s
  | .prefixCb => execPrefixCb s
  | .prefixEd => execPrefixEd s
  | .prefixXy xy => execPrefixXy xy s
  | _ => .fault .badPrefixState

/-- The fallback, prefix without effect: a second breakpoint check at the address of the opcode byte, then the main-table
entry of the byte, which fetches its own operands (R137; D15; log entry 12). -/
def execFallbackXy (_ : IndexReg) (op : Byte) (s : State) : Result :=
  let (op', s) := s.consultBp (s.pc - 1#16) op
  let i := decodeMain op' (s.peek s.pc) (s.peek (s.pc + 1#16))
  execMain i (s.fetchOperands i.operandBytes)

/-! ## CB after DD or FD (R141) -/

/-- `ExecIndexCB` on a decoded DD/FD CB entry (R154). `decodeIndexCB` gives no other instruction, so the last arm is never
reached; it fails loudly (R600, R601; log entry 14). -/
def execIndexCB (i : Instr) (s : State) : Result :=
  match i with
  | .rlcAtXyD xy d => execRlcAtXyD xy d s
  | .rlcAtXyDR xy d r => execRlcAtXyDR xy d r s
  | .rrcAtXyD xy d => execRrcAtXyD xy d s
  | .rrcAtXyDR xy d r => execRrcAtXyDR xy d r s
  | .rlAtXyD xy d => execRlAtXyD xy d s
  | .rlAtXyDR xy d r => execRlAtXyDR xy d r s
  | .rrAtXyD xy d => execRrAtXyD xy d s
  | .rrAtXyDR xy d r => execRrAtXyDR xy d r s
  | .slaAtXyD xy d => execSlaAtXyD xy d s
  | .slaAtXyDR xy d r => execSlaAtXyDR xy d r s
  | .sraAtXyD xy d => execSraAtXyD xy d s
  | .sraAtXyDR xy d r => execSraAtXyDR xy d r s
  | .sllAtXyD xy d => execSllAtXyD xy d s
  | .sllAtXyDR xy d r => execSllAtXyDR xy d r s
  | .srlAtXyD xy d => execSrlAtXyD xy d s
  | .srlAtXyDR xy d r => execSrlAtXyDR xy d r s
  | .bitAtXyD xy d b _ => execBitAtXyD xy d b s
  | .resAtXyD xy d b => execResAtXyD xy d b s
  | .resAtXyDR xy d b r => execResAtXyDR xy d b r s
  | .setAtXyD xy d b => execSetAtXyD xy d b s
  | .setAtXyDR xy d b r => execSetAtXyDR xy d b r s
  | _ => .fault .badPrefixState

/-- CB after DD or FD, as the table's own row: the displacement and the final opcode are operand reads of the same step, then
the entry they select (R141; log entry 12). -/
def execPrefixCbAfterXy (xy : IndexReg) (s : State) : Result :=
  let (d, s) := s.imm8
  let (op, s) := s.imm8
  execIndexCB (decodeIndexCB xy d op) s

end Sys2Proof.Machine
end

