-- ==== Sys2Proof/Machine/Dispatch.lean ====
section
/-! DEFINITION. What each instruction does: one arm per constructor of `Instr`, each one call of its meaning. The step has
fetched the opcode and the operand bytes and moved PC past them (log entry 11). -/

namespace Sys2Proof.Machine

def exec (i : Instr) (s : State) : Host.Outcome State Fault Refusal :=
  match i with
  -- main table (30_encoding.md R150)
  | .nop => Sys2Proof.Machine.execNop s
  | .exAfAf => Sys2Proof.Machine.execExAfAf s
  | .djnz e => Sys2Proof.Machine.execDjnz e s
  | .jr e => Sys2Proof.Machine.execJr e s
  | .jrCc cc e => Sys2Proof.Machine.execJrCc cc e s
  | .ldRpNn rp nn => Sys2Proof.Machine.execLdRpNn rp nn s
  | .addHlRp rp => Sys2Proof.Machine.execAddHlRp rp s
  | .ldAtBcA => Sys2Proof.Machine.execLdAtBcA s
  | .ldAtDeA => Sys2Proof.Machine.execLdAtDeA s
  | .ldAtNnHl nn => Sys2Proof.Machine.execLdAtNnHl nn s
  | .ldAtNnA nn => Sys2Proof.Machine.execLdAtNnA nn s
  | .ldAAtBc => Sys2Proof.Machine.execLdAAtBc s
  | .ldAAtDe => Sys2Proof.Machine.execLdAAtDe s
  | .ldHlAtNn nn => Sys2Proof.Machine.execLdHlAtNn nn s
  | .ldAAtNn nn => Sys2Proof.Machine.execLdAAtNn nn s
  | .incRp rp => Sys2Proof.Machine.execIncRp rp s
  | .decRp rp => Sys2Proof.Machine.execDecRp rp s
  | .incR r => Sys2Proof.Machine.execIncR r s
  | .incAtHl => Sys2Proof.Machine.execIncAtHl s
  | .decR r => Sys2Proof.Machine.execDecR r s
  | .decAtHl => Sys2Proof.Machine.execDecAtHl s
  | .ldRN r n => Sys2Proof.Machine.execLdRN r n s
  | .ldAtHlN n => Sys2Proof.Machine.execLdAtHlN n s
  | .rlca => Sys2Proof.Machine.execRlca s
  | .rrca => Sys2Proof.Machine.execRrca s
  | .rla => Sys2Proof.Machine.execRla s
  | .rra => Sys2Proof.Machine.execRra s
  | .daa => Sys2Proof.Machine.execDaa s
  | .cpl => Sys2Proof.Machine.execCpl s
  | .scf => Sys2Proof.Machine.execScf s
  | .ccf => Sys2Proof.Machine.execCcf s
  | .halt => Sys2Proof.Machine.execHalt s
  | .ldRAtHl r => Sys2Proof.Machine.execLdRAtHl r s
  | .ldAtHlR r => Sys2Proof.Machine.execLdAtHlR r s
  | .ldRR dst src => Sys2Proof.Machine.execLdRR dst src s
  | .addAR r => Sys2Proof.Machine.execAddAR r s
  | .addAAtHl => Sys2Proof.Machine.execAddAAtHl s
  | .addAN n => Sys2Proof.Machine.execAddAN n s
  | .adcAR r => Sys2Proof.Machine.execAdcAR r s
  | .adcAAtHl => Sys2Proof.Machine.execAdcAAtHl s
  | .adcAN n => Sys2Proof.Machine.execAdcAN n s
  | .subR r => Sys2Proof.Machine.execSubR r s
  | .subAtHl => Sys2Proof.Machine.execSubAtHl s
  | .subN n => Sys2Proof.Machine.execSubN n s
  | .sbcAR r => Sys2Proof.Machine.execSbcAR r s
  | .sbcAAtHl => Sys2Proof.Machine.execSbcAAtHl s
  | .sbcAN n => Sys2Proof.Machine.execSbcAN n s
  | .andR r => Sys2Proof.Machine.execAndR r s
  | .andAtHl => Sys2Proof.Machine.execAndAtHl s
  | .andN n => Sys2Proof.Machine.execAndN n s
  | .xorR r => Sys2Proof.Machine.execXorR r s
  | .xorAtHl => Sys2Proof.Machine.execXorAtHl s
  | .xorN n => Sys2Proof.Machine.execXorN n s
  | .orR r => Sys2Proof.Machine.execOrR r s
  | .orAtHl => Sys2Proof.Machine.execOrAtHl s
  | .orN n => Sys2Proof.Machine.execOrN n s
  | .cpR r => Sys2Proof.Machine.execCpR r s
  | .cpAtHl => Sys2Proof.Machine.execCpAtHl s
  | .cpN n => Sys2Proof.Machine.execCpN n s
  | .retCc cc => Sys2Proof.Machine.execRetCc cc s
  | .popRp2 rp => Sys2Proof.Machine.execPopRp2 rp s
  | .ret => Sys2Proof.Machine.execRet s
  | .exx => Sys2Proof.Machine.execExx s
  | .jpHl => Sys2Proof.Machine.execJpHl s
  | .ldSpHl => Sys2Proof.Machine.execLdSpHl s
  | .exAtSpHl => Sys2Proof.Machine.execExAtSpHl s
  | .exDeHl => Sys2Proof.Machine.execExDeHl s
  | .di => Sys2Proof.Machine.execDi s
  | .ei => Sys2Proof.Machine.execEi s
  | .jpCcNn cc nn => Sys2Proof.Machine.execJpCcNn cc nn s
  | .jpNn nn => Sys2Proof.Machine.execJpNn nn s
  | .outAtNA n => Sys2Proof.Machine.execOutAtNA n s
  | .inAAtN n => Sys2Proof.Machine.execInAAtN n s
  | .callCcNn cc nn => Sys2Proof.Machine.execCallCcNn cc nn s
  | .pushRp2 rp => Sys2Proof.Machine.execPushRp2 rp s
  | .callNn nn => Sys2Proof.Machine.execCallNn nn s
  | .rst p => Sys2Proof.Machine.execRst p s
  | .prefixCb => Sys2Proof.Machine.execPrefixCb s
  | .prefixEd => Sys2Proof.Machine.execPrefixEd s
  | .prefixXy xy => Sys2Proof.Machine.execPrefixXy xy s
  -- CB table (30_encoding.md R151)
  | .rlcR r => Sys2Proof.Machine.execRlcR r s
  | .rlcAtHl => Sys2Proof.Machine.execRlcAtHl s
  | .rrcR r => Sys2Proof.Machine.execRrcR r s
  | .rrcAtHl => Sys2Proof.Machine.execRrcAtHl s
  | .rlR r => Sys2Proof.Machine.execRlR r s
  | .rlAtHl => Sys2Proof.Machine.execRlAtHl s
  | .rrR r => Sys2Proof.Machine.execRrR r s
  | .rrAtHl => Sys2Proof.Machine.execRrAtHl s
  | .slaR r => Sys2Proof.Machine.execSlaR r s
  | .slaAtHl => Sys2Proof.Machine.execSlaAtHl s
  | .sraR r => Sys2Proof.Machine.execSraR r s
  | .sraAtHl => Sys2Proof.Machine.execSraAtHl s
  | .sllR r => Sys2Proof.Machine.execSllR r s
  | .sllAtHl => Sys2Proof.Machine.execSllAtHl s
  | .srlR r => Sys2Proof.Machine.execSrlR r s
  | .srlAtHl => Sys2Proof.Machine.execSrlAtHl s
  | .bitR b r => Sys2Proof.Machine.execBitR b r s
  | .bitAtHl b => Sys2Proof.Machine.execBitAtHl b s
  | .resR b r => Sys2Proof.Machine.execResR b r s
  | .resAtHl b => Sys2Proof.Machine.execResAtHl b s
  | .setR b r => Sys2Proof.Machine.execSetR b r s
  | .setAtHl b => Sys2Proof.Machine.execSetAtHl b s
  -- ED table (30_encoding.md R152)
  | .inRC r => Sys2Proof.Machine.execInRC r s
  | .inC => Sys2Proof.Machine.execInC s
  | .outCR r => Sys2Proof.Machine.execOutCR r s
  | .outC0 => Sys2Proof.Machine.execOutC0 s
  | .sbcHlRp rp => Sys2Proof.Machine.execSbcHlRp rp s
  | .adcHlRp rp => Sys2Proof.Machine.execAdcHlRp rp s
  | .ldAtNnRp rp nn => Sys2Proof.Machine.execLdAtNnRp rp nn s
  | .ldRpAtNn rp nn => Sys2Proof.Machine.execLdRpAtNn rp nn s
  | .neg _ => Sys2Proof.Machine.execNeg s
  | .reti => Sys2Proof.Machine.execReti s
  | .retn _ => Sys2Proof.Machine.execRetn s
  | .im0 _ => Sys2Proof.Machine.execIm0 s
  | .im1 _ => Sys2Proof.Machine.execIm1 s
  | .im2 _ => Sys2Proof.Machine.execIm2 s
  | .ldIA => Sys2Proof.Machine.execLdIA s
  | .ldRA => Sys2Proof.Machine.execLdRA s
  | .ldAI => Sys2Proof.Machine.execLdAI s
  | .ldAR => Sys2Proof.Machine.execLdAR s
  | .rrd => Sys2Proof.Machine.execRrd s
  | .rld => Sys2Proof.Machine.execRld s
  | .ldi => Sys2Proof.Machine.execLdi s
  | .cpi => Sys2Proof.Machine.execCpi s
  | .ini => Sys2Proof.Machine.execIni s
  | .outi => Sys2Proof.Machine.execOuti s
  | .ldd => Sys2Proof.Machine.execLdd s
  | .cpd => Sys2Proof.Machine.execCpd s
  | .ind => Sys2Proof.Machine.execInd s
  | .outd => Sys2Proof.Machine.execOutd s
  | .ldir => Sys2Proof.Machine.execLdir s
  | .cpir => Sys2Proof.Machine.execCpir s
  | .inir => Sys2Proof.Machine.execInir s
  | .otir => Sys2Proof.Machine.execOtir s
  | .lddr => Sys2Proof.Machine.execLddr s
  | .cpdr => Sys2Proof.Machine.execCpdr s
  | .indr => Sys2Proof.Machine.execIndr s
  | .otdr => Sys2Proof.Machine.execOtdr s
  | .nopEd _ => Sys2Proof.Machine.execNopEd s
  -- DD/FD table (30_encoding.md R153)
  | .addXyRp xy rp => Sys2Proof.Machine.execAddXyRp xy rp s
  | .ldXyNn xy nn => Sys2Proof.Machine.execLdXyNn xy nn s
  | .ldAtNnXy xy nn => Sys2Proof.Machine.execLdAtNnXy xy nn s
  | .ldXyAtNn xy nn => Sys2Proof.Machine.execLdXyAtNn xy nn s
  | .incXy xy => Sys2Proof.Machine.execIncXy xy s
  | .decXy xy => Sys2Proof.Machine.execDecXy xy s
  | .incXyHalf xy half => Sys2Proof.Machine.execIncXyHalf xy half s
  | .decXyHalf xy half => Sys2Proof.Machine.execDecXyHalf xy half s
  | .ldXyHalfN xy half n => Sys2Proof.Machine.execLdXyHalfN xy half n s
  | .incAtXyD xy d => Sys2Proof.Machine.execIncAtXyD xy d s
  | .decAtXyD xy d => Sys2Proof.Machine.execDecAtXyD xy d s
  | .ldAtXyDN xy d n => Sys2Proof.Machine.execLdAtXyDN xy d n s
  | .ldRAtXyD xy r d => Sys2Proof.Machine.execLdRAtXyD xy r d s
  | .ldAtXyDR xy d r => Sys2Proof.Machine.execLdAtXyDR xy d r s
  | .ldRXyHalf xy r half => Sys2Proof.Machine.execLdRXyHalf xy r half s
  | .ldXyHalfR xy half src => Sys2Proof.Machine.execLdXyHalfR xy half src s
  | .addAAtXyD xy d => Sys2Proof.Machine.execAddAAtXyD xy d s
  | .addAXyHalf xy half => Sys2Proof.Machine.execAddAXyHalf xy half s
  | .adcAAtXyD xy d => Sys2Proof.Machine.execAdcAAtXyD xy d s
  | .adcAXyHalf xy half => Sys2Proof.Machine.execAdcAXyHalf xy half s
  | .subAtXyD xy d => Sys2Proof.Machine.execSubAtXyD xy d s
  | .subXyHalf xy half => Sys2Proof.Machine.execSubXyHalf xy half s
  | .sbcAAtXyD xy d => Sys2Proof.Machine.execSbcAAtXyD xy d s
  | .sbcAXyHalf xy half => Sys2Proof.Machine.execSbcAXyHalf xy half s
  | .andAtXyD xy d => Sys2Proof.Machine.execAndAtXyD xy d s
  | .andXyHalf xy half => Sys2Proof.Machine.execAndXyHalf xy half s
  | .xorAtXyD xy d => Sys2Proof.Machine.execXorAtXyD xy d s
  | .xorXyHalf xy half => Sys2Proof.Machine.execXorXyHalf xy half s
  | .orAtXyD xy d => Sys2Proof.Machine.execOrAtXyD xy d s
  | .orXyHalf xy half => Sys2Proof.Machine.execOrXyHalf xy half s
  | .cpAtXyD xy d => Sys2Proof.Machine.execCpAtXyD xy d s
  | .cpXyHalf xy half => Sys2Proof.Machine.execCpXyHalf xy half s
  | .popXy xy => Sys2Proof.Machine.execPopXy xy s
  | .exAtSpXy xy => Sys2Proof.Machine.execExAtSpXy xy s
  | .pushXy xy => Sys2Proof.Machine.execPushXy xy s
  | .jpXy xy => Sys2Proof.Machine.execJpXy xy s
  | .ldSpXy xy => Sys2Proof.Machine.execLdSpXy xy s
  | .prefixChain xy second => Sys2Proof.Machine.execPrefixChain xy second s
  | .prefixEdAfterXy xy => Sys2Proof.Machine.execPrefixEdAfterXy xy s
  | .prefixCbAfterXy xy => Sys2Proof.Machine.execPrefixCbAfterXy xy s
  | .fallbackXy xy op => Sys2Proof.Machine.execFallbackXy xy op s
  -- DD/FD CB table (30_encoding.md R154)
  | .rlcAtXyD xy d => Sys2Proof.Machine.execRlcAtXyD xy d s
  | .rlcAtXyDR xy d r => Sys2Proof.Machine.execRlcAtXyDR xy d r s
  | .rrcAtXyD xy d => Sys2Proof.Machine.execRrcAtXyD xy d s
  | .rrcAtXyDR xy d r => Sys2Proof.Machine.execRrcAtXyDR xy d r s
  | .rlAtXyD xy d => Sys2Proof.Machine.execRlAtXyD xy d s
  | .rlAtXyDR xy d r => Sys2Proof.Machine.execRlAtXyDR xy d r s
  | .rrAtXyD xy d => Sys2Proof.Machine.execRrAtXyD xy d s
  | .rrAtXyDR xy d r => Sys2Proof.Machine.execRrAtXyDR xy d r s
  | .slaAtXyD xy d => Sys2Proof.Machine.execSlaAtXyD xy d s
  | .slaAtXyDR xy d r => Sys2Proof.Machine.execSlaAtXyDR xy d r s
  | .sraAtXyD xy d => Sys2Proof.Machine.execSraAtXyD xy d s
  | .sraAtXyDR xy d r => Sys2Proof.Machine.execSraAtXyDR xy d r s
  | .sllAtXyD xy d => Sys2Proof.Machine.execSllAtXyD xy d s
  | .sllAtXyDR xy d r => Sys2Proof.Machine.execSllAtXyDR xy d r s
  | .srlAtXyD xy d => Sys2Proof.Machine.execSrlAtXyD xy d s
  | .srlAtXyDR xy d r => Sys2Proof.Machine.execSrlAtXyDR xy d r s
  | .bitAtXyD xy d b _ => Sys2Proof.Machine.execBitAtXyD xy d b s
  | .resAtXyD xy d b => Sys2Proof.Machine.execResAtXyD xy d b s
  | .resAtXyDR xy d b r => Sys2Proof.Machine.execResAtXyDR xy d b r s
  | .setAtXyD xy d b => Sys2Proof.Machine.execSetAtXyD xy d b s
  | .setAtXyDR xy d b r => Sys2Proof.Machine.execSetAtXyDR xy d b r s

end Sys2Proof.Machine
end

