-- ==== Sys2Proof/Machine/Fetch.lean ====
section
/-! DEFINITION. Fetching an instruction: steps (1) to (4) of `Step()` up to the instruction rule (30_encoding.md R130 to
R137), and placing a program's bytes in memory. -/

namespace Sys2Proof.Machine

/-- Steps (1) to (3): the opcode fetch, IncR, the breakpoint substitution where no prefix is pending, PC past the byte
(R130, R131, R132). -/
def State.fetchOpcode (s : State) : Byte × State :=
  let a := s.pc
  let (op, s) := s.fetchOp a
  let s := s.incR
  let (op, s) := if s.pfx = .noPfx then s.consultBp a op else (op, s)
  (op, { s with pc := s.pc + 1#16, qCur := false })

/-- The start of step (4): in state NONE the enable delay ends, in every other state the prefix is consumed (R133 to
R136). -/
def State.leavePrefix (s : State) : State :=
  { s with pfx := .noPfx, pendingEI := s.pfx != .noPfx && s.pendingEI }

/-- The instruction of this step and the state its rule starts from: opcode and operand bytes fetched, PC past them (R130;
log entry 11). -/
def State.fetchInstr (s : State) : Instr × State :=
  let (op, s) := s.fetchOpcode
  let i := decodeAt s.pfx op (s.peek s.pc) (s.peek (s.pc + 1#16))
  (i, s.leavePrefix.fetchOperands i.operandBytes)

/-! ## Placing bytes -/

/-- Memory with the bytes stored from address `a` on, wrapping at the top. -/
def Memory.store (m : Memory) (a : Word) (bytes : List Byte) : Memory :=
  match bytes with
  | [] => m
  | v :: rest => (m.write a v).store (a + 1#16) rest

/-- The four bytes of an `nbits`-bit table word, zeros after the bytes it gives (log entry 1). -/
def wordBytes (nbits w : Nat) : List Byte := (tableBytes (nbits / 8) w ++ [0#8, 0#8, 0#8, 0#8]).take 4

/-- The prefix state in which an instruction's opcode step starts: a word of more than one byte that begins with a prefix
byte runs from that prefix; a one-byte word runs from NONE (R130, R133). -/
def wordPrefix (nbits w : Nat) : Pfx :=
  if nbits ≤ 8 then .noPfx
  else
    match wordBytes nbits w with
    | [] => .noPfx
    | op :: _ => (pfxOfByte op).getD .noPfx

/-- The state whose very next step runs the instruction of a table word: its bytes at PC, the step that fetches a prefix
byte taken as done, and no breakpoint at the opcode (log entry 2). -/
def State.placeWord (s : State) (nbits w : Nat) : State :=
  let p := wordPrefix nbits w
  let opPc := if p = .noPfx then s.pc else s.pc + 1#16
  { s with
    mem := s.mem.store s.pc (wordBytes nbits w), pfx := p, pc := opPc
    bp := s.bp.filter (fun a => a != opPc) }

end Sys2Proof.Machine
end

