-- ==== Sys2Proof/Machine/Step.lean ====
section
/-! DEFINITION. One step of the core (30_encoding.md R130). -/

namespace Sys2Proof.Machine

/-- `Step()`: fetch one opcode byte, run the table entry it selects in the prefix state, and at an instruction boundary
track Q, notify, and sample interrupts. A fault of the instruction or of an acceptance is the step's. -/
def step (s : State) : Host.Outcome State Fault Refusal :=
  match exec s.fetchInstr.1 s.fetchInstr.2 with
  | .next t => t.endStep
  | .fault r => .fault r
  | .refused r => .refused r

/-- The state whose very next step runs the instruction of the table word `w` of `nbits` bits (log entry 2). -/
def State.withFetchWord (s : State) (nbits w : Nat) : State := s.placeWord nbits w

end Sys2Proof.Machine
end

