-- ==== Sys2Proof/Machine/HostOps.lean ====
section
/-! DEFINITION. What the host can do between steps: reset (10_state.md R44, R45; 70_reset_and_hazards.md R700), snapshots
(R47), and the interactions of 60_exceptions.md R635. No step calls any of these. -/

namespace Sys2Proof.Machine

/-! ## Reset -/

/-- Full (power-up) reset (R44). -/
def State.fullReset (s : State) : State :=
  { s with
    a := 0xFF#8, f := 0xFF#8, b := 0xFF#8, c := 0xFF#8, d := 0xFF#8, e := 0xFF#8, h := 0xFF#8, l := 0xFF#8
    altA := 0xFF#8, altF := 0xFF#8, altB := 0xFF#8, altC := 0xFF#8, altD := 0xFF#8, altE := 0xFF#8
    altH := 0xFF#8, altL := 0xFF#8
    ix := 0xFFFF#16, iy := 0xFFFF#16, sp := 0xFFFF#16, memptr := 0xFFFF#16
    pc := 0x0000#16, i := 0x00#8, r7 := 0#7, rhi := false
    iff1 := false, iff2 := false, im := .im0, halted := false, pendingEI := false, nmiPending := false
    qLast := false, pfx := .noPfx, pinResetReq := false }

/-- Soft (pin) reset (R45). -/
def State.softReset (s : State) : State :=
  { s with
    pc := 0x0000#16, r7 := 0#7, rhi := false, iff1 := false, iff2 := false, im := .im0, pfx := .noPfx
    i := 0x00#8, halted := false, pendingEI := false, nmiPending := false, qLast := false, pinResetReq := false }

/-- `Reset()`, with the bus's own reset recorded (R700, R704). -/
def State.resetOp (s : State) : State :=
  let s := s.emit .busReset
  if s.pinResetReq then s.softReset else s.fullReset

/-! ## Snapshots (R47) -/

/-- A snapshot: exactly the tuple of R20 to R41. -/
structure Snapshot where
  a : Byte
  f : Byte
  b : Byte
  c : Byte
  d : Byte
  e : Byte
  h : Byte
  l : Byte
  altA : Byte
  altF : Byte
  altB : Byte
  altC : Byte
  altD : Byte
  altE : Byte
  altH : Byte
  altL : Byte
  ix : Word
  iy : Word
  sp : Word
  pc : Word
  i : Byte
  r7 : BitVec 7
  rhi : Bool
  memptr : Word
  qLast : Bool
  iff1 : Bool
  iff2 : Bool
  im : IMode
  halted : Bool
  pendingEI : Bool
  intLine : Bool
  nmiPending : Bool
  pfx : Pfx
  pinResetReq : Bool
  deriving DecidableEq, Repr

/-- Snapshot export. -/
def State.exportSnapshot (s : State) : Snapshot where
  a := s.a
  f := s.f
  b := s.b
  c := s.c
  d := s.d
  e := s.e
  h := s.h
  l := s.l
  altA := s.altA
  altF := s.altF
  altB := s.altB
  altC := s.altC
  altD := s.altD
  altE := s.altE
  altH := s.altH
  altL := s.altL
  ix := s.ix
  iy := s.iy
  sp := s.sp
  pc := s.pc
  i := s.i
  r7 := s.r7
  rhi := s.rhi
  memptr := s.memptr
  qLast := s.qLast
  iff1 := s.iff1
  iff2 := s.iff2
  im := s.im
  halted := s.halted
  pendingEI := s.pendingEI
  intLine := s.intLine
  nmiPending := s.nmiPending
  pfx := s.pfx
  pinResetReq := s.pinResetReq

/-- Snapshot import: everything a snapshot does not hold stays (log entry 19). -/
def State.importSnapshot (s : State) (n : Snapshot) : State :=
  { s with
    a := n.a, f := n.f, b := n.b, c := n.c, d := n.d, e := n.e, h := n.h, l := n.l
    altA := n.altA, altF := n.altF, altB := n.altB, altC := n.altC, altD := n.altD, altE := n.altE
    altH := n.altH, altL := n.altL
    ix := n.ix, iy := n.iy, sp := n.sp, pc := n.pc, i := n.i, r7 := n.r7, rhi := n.rhi
    memptr := n.memptr, qLast := n.qLast, iff1 := n.iff1, iff2 := n.iff2, im := n.im, halted := n.halted
    pendingEI := n.pendingEI, intLine := n.intLine, nmiPending := n.nmiPending, pfx := n.pfx
    pinResetReq := n.pinResetReq }

/-! ## Register and flag accessors (R47, R635) -/

/-- The registers and composite pairs a host names. -/
inductive RegName where
  | a | f | b | c | d | e | h | l | i | r
  | altA | altF | altB | altC | altD | altE | altH | altL
  | ixh | ixl | iyh | iyl
  | af | bc | de | hl | altAF | altBC | altDE | altHL | ix | iy | sp | pc | memptr
  deriving DecidableEq, Repr

/-- The eight flags of F. -/
inductive FlagName where
  | s | z | y | h | x | pv | n | c
  deriving DecidableEq, Repr

/-- A flag's bit position in F (R27). -/
def FlagName.bit (fl : FlagName) : Nat :=
  match fl with
  | .s => 7 | .z => 6 | .y => 5 | .h => 4 | .x => 3 | .pv => 2 | .n => 1 | .c => 0

/-- A register's value. -/
def State.readReg (s : State) (name : RegName) : Nat :=
  match name with
  | .a => s.a.toNat
  | .f => s.f.toNat
  | .b => s.b.toNat
  | .c => s.c.toNat
  | .d => s.d.toNat
  | .e => s.e.toNat
  | .h => s.h.toNat
  | .l => s.l.toNat
  | .i => s.i.toNat
  | .r => s.r.toNat
  | .altA => s.altA.toNat
  | .altF => s.altF.toNat
  | .altB => s.altB.toNat
  | .altC => s.altC.toNat
  | .altD => s.altD.toNat
  | .altE => s.altE.toNat
  | .altH => s.altH.toNat
  | .altL => s.altL.toNat
  | .ixh => (s.half .ix .high).toNat
  | .ixl => (s.half .ix .low).toNat
  | .iyh => (s.half .iy .high).toNat
  | .iyl => (s.half .iy .low).toNat
  | .af => s.af.toNat
  | .bc => s.bc.toNat
  | .de => s.de.toNat
  | .hl => s.hl.toNat
  | .altAF => (pair s.altA s.altF).toNat
  | .altBC => (pair s.altB s.altC).toNat
  | .altDE => (pair s.altD s.altE).toNat
  | .altHL => (pair s.altH s.altL).toNat
  | .ix => s.ix.toNat
  | .iy => s.iy.toNat
  | .sp => s.sp.toNat
  | .pc => s.pc.toNat
  | .memptr => s.memptr.toNat

/-- A host write of a register, reduced to its width (R47). -/
def State.writeReg (s : State) (name : RegName) (v : Nat) : State :=
  let v8 := BitVec.ofNat 8 v
  let v16 := BitVec.ofNat 16 v
  match name with
  | .a => { s with a := v8 }
  | .f => { s with f := v8 }
  | .b => { s with b := v8 }
  | .c => { s with c := v8 }
  | .d => { s with d := v8 }
  | .e => { s with e := v8 }
  | .h => { s with h := v8 }
  | .l => { s with l := v8 }
  | .i => { s with i := v8 }
  | .r => { s with r7 := v8.extractLsb' 0 7, rhi := v8.getLsbD 7 }
  | .altA => { s with altA := v8 }
  | .altF => { s with altF := v8 }
  | .altB => { s with altB := v8 }
  | .altC => { s with altC := v8 }
  | .altD => { s with altD := v8 }
  | .altE => { s with altE := v8 }
  | .altH => { s with altH := v8 }
  | .altL => { s with altL := v8 }
  | .ixh => s.setHalf .ix .high v8
  | .ixl => s.setHalf .ix .low v8
  | .iyh => s.setHalf .iy .high v8
  | .iyl => s.setHalf .iy .low v8
  | .af => s.setAF v16
  | .bc => s.setBC v16
  | .de => s.setDE v16
  | .hl => s.setHL v16
  | .altAF => { s with altA := hi8 v16, altF := lo8 v16 }
  | .altBC => { s with altB := hi8 v16, altC := lo8 v16 }
  | .altDE => { s with altD := hi8 v16, altE := lo8 v16 }
  | .altHL => { s with altH := hi8 v16, altL := lo8 v16 }
  | .ix => { s with ix := v16 }
  | .iy => { s with iy := v16 }
  | .sp => { s with sp := v16 }
  | .pc => { s with pc := v16 }
  | .memptr => { s with memptr := v16 }

/-- A flag's value. -/
def State.readFlag (s : State) (fl : FlagName) : Bool := s.f.getLsbD fl.bit

/-- A host write of one flag; the other seven are unchanged. -/
def State.writeFlag (s : State) (fl : FlagName) (v : Bool) : State :=
  { s with f := (s.f &&& ~~~(1#8 <<< fl.bit)) ||| (carryIn v <<< fl.bit) }

/-! ## Breakpoints (R630) -/

/-- Inserts an address into the strictly rising list. -/
def insertAddr (list : List Word) (a : Word) : List Word :=
  match list with
  | [] => [a]
  | x :: rest => if a < x then a :: x :: rest else if a = x then x :: rest else x :: insertAddr rest a

/-- Whether `a` is a breakpoint. -/
def State.queryBreakpoint (s : State) (a : Word) : Bool := s.bp.contains a

/-! ## The host's moves -/

/-- One move of the host, between steps (R635; 92_eei_decisions.md D28; log entry 17). -/
inductive HostAction where
  /-- `reset()`. -/
  | reset
  /-- `pinResetReq <- true` before a reset. -/
  | requestPinReset
  /-- A register mutator. -/
  | writeReg (name : RegName) (v : Nat)
  /-- A flag mutator. -/
  | writeFlag (fl : FlagName) (v : Bool)
  /-- Mutators of the mode and control state (R33 to R40). -/
  | setQLast (v : Bool)
  | setIff1 (v : Bool)
  | setIff2 (v : Bool)
  | setIM (m : IMode)
  | setHalted (v : Bool)
  | setPendingEI (v : Bool)
  | setNmiPending (v : Bool)
  | setPrefix (p : Pfx)
  /-- Assert the maskable line. -/
  | assertInt
  /-- Deassert the maskable line. -/
  | deassertInt
  /-- Trigger an NMI. -/
  | triggerNmi
  /-- Enable a breakpoint. -/
  | enableBreakpoint (a : Word)
  /-- Disable a breakpoint. -/
  | disableBreakpoint (a : Word)
  /-- Install the breakpoint hook. -/
  | setHook (table : List HookEntry)
  /-- Trace mode on or off. -/
  | setTrace (v : Bool)
  /-- Snapshot import. -/
  | importSnapshot (n : Snapshot)
  /-- Supply a memory byte. -/
  | writeMemory (a : Word) (v : Byte)
  /-- Supply the byte of a later port read. -/
  | supplyPortByte (v : Byte)
  /-- Supply the byte of a later acknowledge. -/
  | supplyAckByte (v : Byte)
  deriving DecidableEq, Repr

/-- What a host move does. -/
def HostAction.apply (act : HostAction) (s : State) : State :=
  match act with
  | .reset => s.resetOp
  | .requestPinReset => { s with pinResetReq := true }
  | .writeReg name v => s.writeReg name v
  | .writeFlag fl v => s.writeFlag fl v
  | .setQLast v => { s with qLast := v }
  | .setIff1 v => { s with iff1 := v }
  | .setIff2 v => { s with iff2 := v }
  | .setIM m => { s with im := m }
  | .setHalted v => { s with halted := v }
  | .setPendingEI v => { s with pendingEI := v }
  | .setNmiPending v => { s with nmiPending := v }
  | .setPrefix p => { s with pfx := p }
  | .assertInt => { s with intLine := true }
  | .deassertInt => { s with intLine := false }
  | .triggerNmi => { s with nmiPending := true }
  | .enableBreakpoint a => { s with bp := insertAddr s.bp a }
  | .disableBreakpoint a => { s with bp := s.bp.filter (fun x => x != a) }
  | .setHook table => { s with bpHook := table }
  | .setTrace v => { s with traceEnabled := v }
  | .importSnapshot n => s.importSnapshot n
  | .writeMemory a v => { s with mem := s.mem.write a v }
  | .supplyPortByte v => { s with portInputs := s.portInputs ++ [v] }
  | .supplyAckByte v => { s with ackInputs := s.ackInputs ++ [v] }

end Sys2Proof.Machine
end

