-- ==== Sys2Proof/Safety.lean ====
section
/-! DEFINITION. The invariant every step keeps, and the end conditions a host may test (60_exceptions.md R636). -/

namespace Sys2Proof.Machine

/-- The breakpoint set's canonical form: strictly rising. -/
def rising (list : List Word) : Bool :=
  match list with
  | [] => true
  | [_] => true
  | x :: y :: rest => x < y && rising (y :: rest)

/-- What holds of a state between steps. -/
structure State.Inv (s : State) : Prop where
  /-- Memory is in canonical form (20_memory.md R80). -/
  memWf : s.mem.wf = true
  /-- The breakpoint set is in canonical form (10_state.md R42). -/
  bpRising : rising s.bp = true
  /-- `qCur` is local to a step (30_encoding.md R130). -/
  qCurFalse : s.qCur = false
  /-- The first fetch after an EI ends the enable delay, so no prefix is pending while the delay lasts (R133, R620). -/
  delayNoPrefix : s.pfx ≠ .noPfx → s.pendingEI = false
  /-- IFF1 is set only together with IFF2 (10_state.md R34). -/
  iff1Iff2 : s.iff1 = true → s.iff2 = true
  /-- While the enable delay lasts, IFF2 is what EI set (R34, R37, R622). -/
  delayIff2 : s.pendingEI = true → s.iff2 = true

/-- End condition (a): halted for good (R619, R636). -/
def State.haltedForGood (s : State) : Bool := s.halted && !s.iff1 && !s.nmiPending

/-- End condition (b): the step from `before` fetched its opcode at an address of the host's completion set (R636). -/
def State.fetchesAt (before : State) (completion : List Word) : Bool := completion.contains before.pc

/-- End condition (c): the step faulted (R636). -/
def Faulted (o : Result) : Prop := ∃ r, o = .fault r

/-- What a host that watches for the three end conditions sees after the step from `before`; the core itself does not stop
in (a) or (b). -/
inductive EndCondition where
  | haltedForGood | breakpointReached | fault
  deriving DecidableEq, Repr

/-- The end condition a host that watches for all three reports of the step from `before`, if any. DESIGN CHOICE (log entry
22): the spec gives the three no order (R636), so where one step meets both (a) and (b) this answers (a), and where a step
that fetched at an address of the completion set faults it answers (c). -/
def endCondition (completion : List Word) (before : State) : Option EndCondition :=
  match step before with
  | .next t =>
    if t.haltedForGood then some .haltedForGood
    else if before.fetchesAt completion then some .breakpointReached else none
  | .fault _ => some .fault
  | .refused _ => none

end Sys2Proof.Machine
end

