-- ==== Sys2Proof/Certificates/Slice0/Obligations.lean ====
section
/-! DEFINITION. The statements for the provers. First the words they are written in: results and flags in exact integer
arithmetic (not through the model's own flag functions), the state after an operand read or a stack access, and where an
instruction stores. Then one `def Obligations.<Name> : Prop` per statement. -/

namespace Sys2Proof.Machine.Claim

/-! ## Bytes and words in integer arithmetic -/

/-- The byte with the value `n` modulo 2^8 (00_scope.md R10). -/
def byteOf (n : Int) : Byte := BitVec.ofInt 8 n

/-- The word with the value `n` modulo 2^16 (R10). -/
def wordOf (n : Int) : Word := BitVec.ofInt 16 n

/-- Whether an integer is outside the range of a signed byte. -/
def overflows8 (n : Int) : Bool := n < -128 || 127 < n

/-- Whether an integer is outside the range of a signed word. -/
def overflows16 (n : Int) : Bool := n < -32768 || 32767 < n

/-- Whether the number of 1 bits of a byte is even (10_state.md R29). -/
def evenOnes (v : Byte) : Bool := ((List.range 8).countP (fun k => v.toNat / 2 ^ k % 2 = 1)) % 2 = 0

/-- Bit `k` of a number. -/
def bitOf (n k : Nat) : Bool := n / 2 ^ k % 2 = 1

/-- `v` with bit `b` set to `on`. -/
def putBit (v : Byte) (b : BitVec 3) (on : Bool) : Byte :=
  BitVec.ofNat 8 (v.toNat - 2 ^ b.toNat * (v.toNat / 2 ^ b.toNat % 2) + 2 ^ b.toNat * on.toNat)

/-- The F with S, Z, Y, X and an even-parity PV from a byte, and the given H, N and C. -/
def parityFlags (r : Byte) (h n c : Bool) : Byte :=
  mkF (128 ≤ r.toNat) (r.toNat = 0) (bitOf r.toNat 5) h (bitOf r.toNat 3) (evenOnes r) n c

/-! ## The state after an access -/

/-- After the operand read at (HL). -/
def readHl (s : State) : State := { s with history := .read s.hl (s.peek s.hl) :: s.history }

/-- The address of (XY+d). -/
def addr (s : State) (xy : IndexReg) (d : Byte) : Word := wordOf ((s.index xy).toNat + d.toInt)

/-- After the operand read at (XY+d): MEMPTR holds the address. -/
def readXy (s : State) (xy : IndexReg) (d : Byte) : State :=
  { s with memptr := addr s xy d, history := .read (addr s xy d) (s.peek (addr s xy d)) :: s.history }

/-- After a store of one byte. -/
def stored (s : State) (a : Word) (v : Byte) : State :=
  { s with mem := s.mem.write a v, history := .write a v :: s.history }

/-- After a read of one byte. -/
def loaded (s : State) (a : Word) : State := { s with history := .read a (s.peek a) :: s.history }

/-- The word in memory at `a`, low byte first. -/
def wordAt (s : State) (a : Word) : Word := wordOf ((s.peek a).toNat + 256 * (s.peek (a + 1#16)).toNat)

/-- After a push: high byte stored at SP - 1, then low byte at SP - 2, SP two lower (20_memory.md R88). -/
def pushed (s : State) (v : Word) : State :=
  let t := stored (stored s (s.sp - 1#16) (byteOf (v.toNat / 256))) (s.sp - 2#16) (byteOf v.toNat)
  { t with sp := s.sp - 2#16 }

/-- After a pop: the bytes at SP and SP + 1 read, SP two higher (R88). -/
def popped (s : State) : State := { loaded (loaded s s.sp) (s.sp + 1#16) with sp := s.sp + 2#16 }

/-- The byte the environment answers a port read with: the next byte the host has supplied, else a free draw (20_memory.md
R89; log entry 4). -/
def inputByte (s : State) (p : Word) : Byte := s.portInputs.headD (Config.portIn s.portDraws p)

/-- After a port read. -/
def afterInput (s : State) (p : Word) : State :=
  { s with
    portInputs := s.portInputs.tail
    portDraws := if s.portInputs = [] then s.portDraws + 1 else s.portDraws
    history := .portRead p (inputByte s p) :: s.history }

/-- After a port write. -/
def afterOutput (s : State) (p : Word) (v : Byte) : State := { s with history := .portWrite p v :: s.history }

/-- A half of an index register: the byte of its number (10_state.md R22). -/
def halfByte (s : State) (xy : IndexReg) (half : Half) : Byte :=
  match half with
  | .high => byteOf ((s.index xy).toNat / 256)
  | .low => byteOf (s.index xy).toNat

/-! ## 8-bit arithmetic and logic on A -/

/-- A and F after an addition (43_alu8.md R310). -/
def afterAdd (s : State) (v : Byte) (c : Bool) : State :=
  let sum := s.a.toNat + v.toNat + c.toNat
  let r := byteOf sum
  { s with
    a := r
    f := mkF (128 ≤ r.toNat) (r.toNat = 0) (bitOf r.toNat 5) (15 < s.a.toNat % 16 + v.toNat % 16 + c.toNat) (bitOf r.toNat 3)
      (overflows8 (s.a.toInt + v.toInt + c.toNat)) false (255 < sum)
    qCur := true }

/-- A and F after a subtraction (R311). -/
def afterSub (s : State) (v : Byte) (c : Bool) : State :=
  let r := byteOf ((s.a.toNat : Int) - v.toNat - c.toNat)
  { s with
    a := r
    f := mkF (128 ≤ r.toNat) (r.toNat = 0) (bitOf r.toNat 5) (s.a.toNat % 16 < v.toNat % 16 + c.toNat) (bitOf r.toNat 3)
      (overflows8 (s.a.toInt - v.toInt - c.toNat)) true (s.a.toNat < v.toNat + c.toNat)
    qCur := true }

/-- F after a compare: that of the subtraction, with Y and X from the operand; A is not written (R312). -/
def afterCp (s : State) (v : Byte) : State :=
  let r := byteOf ((s.a.toNat : Int) - v.toNat)
  { s with
    f := mkF (128 ≤ r.toNat) (r.toNat = 0) (bitOf v.toNat 5) (s.a.toNat % 16 < v.toNat % 16) (bitOf v.toNat 3)
      (overflows8 (s.a.toInt - v.toInt)) true (s.a.toNat < v.toNat)
    qCur := true }

/-- A and F after a logical operation with result `r` (R313, R314, R315). -/
def afterLogic (s : State) (r : Byte) (h : Bool) : State := { s with a := r, f := parityFlags r h false false, qCur := true }

/-- F after an increment of `v` (R316). -/
def incFlags (v f : Byte) : Byte :=
  let r := byteOf (v.toNat + 1)
  mkF (128 ≤ r.toNat) (r.toNat = 0) (bitOf r.toNat 5) (15 < v.toNat % 16 + 1) (bitOf r.toNat 3) (overflows8 (v.toInt + 1))
    false (flagC f)

/-- F after a decrement of `v` (R317). -/
def decFlags (v f : Byte) : Byte :=
  let r := byteOf ((v.toNat : Int) - 1)
  mkF (128 ≤ r.toNat) (r.toNat = 0) (bitOf r.toNat 5) (v.toNat % 16 < 1) (bitOf r.toNat 3) (overflows8 (v.toInt - 1)) true
    (flagC f)

/-! ## 16-bit arithmetic -/

/-- F after a 16-bit ADD: S, Z and PV kept (45_alu16.md R410). -/
def add16Flags (x y : Word) (f : Byte) : Byte :=
  let r := (x.toNat + y.toNat) % 65536
  mkF (flagS f) (flagZ f) (bitOf r 13) (4095 < x.toNat % 4096 + y.toNat % 4096) (bitOf r 11) (flagPV f) false
    (65535 < x.toNat + y.toNat)

/-- F after a 16-bit ADC (R411). -/
def adc16Flags (x y : Word) (c : Bool) : Byte :=
  let r := (x.toNat + y.toNat + c.toNat) % 65536
  mkF (32768 ≤ r) (r = 0) (bitOf r 13) (4095 < x.toNat % 4096 + y.toNat % 4096 + c.toNat) (bitOf r 11)
    (overflows16 (x.toInt + y.toInt + c.toNat)) false (65535 < x.toNat + y.toNat + c.toNat)

/-- F after a 16-bit SBC (R412). -/
def sbc16Flags (x y : Word) (c : Bool) : Byte :=
  let r := (wordOf ((x.toNat : Int) - y.toNat - c.toNat)).toNat
  mkF (32768 ≤ r) (r = 0) (bitOf r 13) (x.toNat % 4096 < y.toNat % 4096 + c.toNat) (bitOf r 11)
    (overflows16 (x.toInt - y.toInt - c.toNat)) true (x.toNat < y.toNat + c.toNat)

/-! ## Rotates and shifts -/

/-- The result of a rotate or shift as a number, and the bit shifted out (46_rotate_shift.md R434). -/
def rotated (op : RotOp) (v : Nat) (c : Bool) : Nat × Bool :=
  match op with
  | .rlc => (2 * v % 256 + v / 128, bitOf v 7)
  | .rrc => (v / 2 + 128 * (v % 2), bitOf v 0)
  | .rl => (2 * v % 256 + c.toNat, bitOf v 7)
  | .rr => (v / 2 + 128 * c.toNat, bitOf v 0)
  | .sla => (2 * v % 256, bitOf v 7)
  | .sra => (v / 2 + 128 * (v / 128), bitOf v 0)
  | .sll => (2 * v % 256 + 1, bitOf v 7)
  | .srl => (v / 2, bitOf v 0)

/-- The result byte (R434). -/
def rotByte (op : RotOp) (v : Byte) (f : Byte) : Byte := BitVec.ofNat 8 (rotated op v.toNat (flagC f)).1

/-- F after a CB rotate or shift: every bit written (R434). -/
def rotFlags (op : RotOp) (v f : Byte) : Byte :=
  parityFlags (rotByte op v f) false false (rotated op v.toNat (flagC f)).2

/-- F after an accumulator rotate with result `r`: S, Z and PV kept (R430 to R433). -/
def rotAFlags (r f : Byte) (out : Bool) : Byte :=
  mkF (flagS f) (flagZ f) (bitOf r.toNat 5) false (bitOf r.toNat 3) (flagPV f) false out

/-! ## Block instructions -/

/-- +1 or -1 (42_exchange_block.md R279). -/
def inc (down : Bool) : Word := if down then 0xFFFF#16 else 1#16

/-- After the single form of a block load (R281, R282). -/
def afterBlockLoad (s : State) (down : Bool) : State :=
  let t := s.peek s.hl
  let n := (t.toNat + s.a.toNat) % 256
  let u := stored (readHl s) s.de t
  let u := ((u.setHL (s.hl + inc down)).setDE (s.de + inc down)).setBC (s.bc - 1#16)
  { u with
    f := mkF (flagS s.f) (flagZ s.f) (bitOf n 1) false (bitOf n 3) (s.bc.toNat ≠ 1) false (flagC s.f)
    qCur := true }

/-- After the single form of a block compare (R285, R286). -/
def afterBlockCompare (s : State) (down : Bool) : State :=
  let t := s.peek s.hl
  let r := byteOf ((s.a.toNat : Int) - t.toNat)
  let h := decide (s.a.toNat % 16 < t.toNat % 16)
  let n := (byteOf ((r.toNat : Int) - h.toNat)).toNat
  let u := ((readHl s).setHL (s.hl + inc down)).setBC (s.bc - 1#16)
  { u with
    memptr := s.memptr + inc down
    f := mkF (128 ≤ r.toNat) (r.toNat = 0) (bitOf n 1) h (bitOf n 3) (s.bc.toNat ≠ 1) true (flagC s.f)
    qCur := true }

/-- The F of a block input or output with new B `b`, byte `t` and sum `k` (R289 to R296). -/
def blockIoFlags (b t : Byte) (k : Nat) : Byte :=
  mkF (128 ≤ b.toNat) (b.toNat = 0) (bitOf b.toNat 5) (255 < k) (bitOf b.toNat 3) (evenOnes (BitVec.ofNat 8 (k % 8) ^^^ b))
    (128 ≤ t.toNat) (255 < k)

/-- After the single form of a block input: the port and MEMPTR use the old B (R289, R290). -/
def afterBlockIn (s : State) (down : Bool) : State :=
  let t := inputByte s s.bc
  let b := s.b - 1#8
  let k := t.toNat + (if down then s.c.toNat + 255 else s.c.toNat + 1) % 256
  let u := (stored (afterInput s s.bc) s.hl t).setHL (s.hl + inc down)
  { u with memptr := s.bc + inc down, b := b, f := blockIoFlags b t k, qCur := true }

/-- After the single form of a block output: the port and MEMPTR use the new B, k the L after HL moved (R293, R294). -/
def afterBlockOut (s : State) (down : Bool) : State :=
  let t := s.peek s.hl
  let b := s.b - 1#8
  let port := wordOf (b.toNat * 256 + s.c.toNat)
  let hl := s.hl + inc down
  let k := t.toNat + hl.toNat % 256
  let u := (afterOutput (readHl s) port t).setHL hl
  { u with memptr := port + inc down, b := b, f := blockIoFlags b t k, qCur := true }

/-- The repeat step after a single form: PC back by two, MEMPTR the address of the block opcode byte, Y and X from the
rewound PC under the parameter (R280). -/
def repeated (t : State) : State :=
  let pc := t.pc - 2#16
  { t with
    pc := pc, memptr := pc + 1#16
    f := if t.params.blockRepeatXYFromPC then
        mkF (flagS t.f) (flagZ t.f) (bitOf pc.toNat 13) (flagH t.f) (bitOf pc.toNat 11) (flagPV t.f) (flagN t.f) (flagC t.f)
      else t.f }

/-! ## Control transfer -/

/-- A condition on F (10_state.md R31). -/
def holds (cc : Cond) (f : Byte) : Bool :=
  match cc with
  | .nz => !bitOf f.toNat 6
  | .z => bitOf f.toNat 6
  | .nc => !bitOf f.toNat 0
  | .c => bitOf f.toNat 0
  | .po => !bitOf f.toNat 2
  | .pe => bitOf f.toNat 2
  | .p => !bitOf f.toNat 7
  | .m => bitOf f.toNat 7

/-- The target of a relative jump from PC (48_jump_call_return.md R502). -/
def relTarget (s : State) (e : Byte) : Word := wordOf (s.pc.toNat + e.toInt)

/-! ## Interrupts -/

/-- The return address an acceptance pushes: past the HALT byte where the core is halted (60_exceptions.md R609). -/
def returnAddress (s : State) : Word := if s.halted then s.pc + 1#16 else s.pc

/-- What every acceptance leaves, before the new PC and MEMPTR: awake, R counted, IFF1 clear and IFF2 as given, Q clear, the
return address pushed (R608 to R612). -/
def entered (s : State) (iff2 : Bool) : State :=
  { pushed s (returnAddress s) with halted := false, r7 := s.r7 + 1#7, iff1 := false, iff2 := iff2, qLast := false }

/-- The acknowledge byte: the next byte the host has supplied, else a free draw (R612; log entry 5). -/
def ackByte (s : State) : Byte := s.ackInputs.headD (Config.intAckByte s.ackDraws)

/-- After the acknowledge byte is drawn. -/
def afterAck (s : State) : State :=
  { s with
    ackInputs := s.ackInputs.tail
    ackDraws := if s.ackInputs = [] then s.ackDraws + 1 else s.ackDraws
    history := .intAck (ackByte s) :: s.history }

/-! ## Where an instruction stores -/

/-- The addresses an instruction of one of the five tables stores to, in the state its rule starts from. Every instruction
not named here stores nothing. -/
def storesDirect (i : Instr) (s : State) : List Word :=
  match i with
  | .ldAtBcA => [s.bc]
  | .ldAtDeA => [s.de]
  | .ldAtNnA nn => [nn]
  | .ldAtNnHl nn | .ldAtNnRp _ nn | .ldAtNnXy _ nn => [nn, nn + 1#16]
  | .ldAtHlR _ | .ldAtHlN _ | .incAtHl | .decAtHl => [s.hl]
  | .rlcAtHl | .rrcAtHl | .rlAtHl | .rrAtHl | .slaAtHl | .sraAtHl | .sllAtHl | .srlAtHl => [s.hl]
  | .resAtHl _ | .setAtHl _ | .rld | .rrd => [s.hl]
  | .ldAtXyDN xy d _ | .ldAtXyDR xy d _ | .incAtXyD xy d | .decAtXyD xy d => [s.ea xy d]
  | .rlcAtXyD xy d | .rrcAtXyD xy d | .rlAtXyD xy d | .rrAtXyD xy d | .slaAtXyD xy d | .sraAtXyD xy d | .sllAtXyD xy d
  | .srlAtXyD xy d => [s.ea xy d]
  | .rlcAtXyDR xy d _ | .rrcAtXyDR xy d _ | .rlAtXyDR xy d _ | .rrAtXyDR xy d _ | .slaAtXyDR xy d _ | .sraAtXyDR xy d _
  | .sllAtXyDR xy d _ | .srlAtXyDR xy d _ => [s.ea xy d]
  | .resAtXyD xy d _ | .setAtXyD xy d _ | .resAtXyDR xy d _ _ | .setAtXyDR xy d _ _ => [s.ea xy d]
  | .pushRp2 _ | .pushXy _ | .callNn _ | .rst _ => [s.sp - 1#16, s.sp - 2#16]
  | .callCcNn cc _ => if holds cc s.f then [s.sp - 1#16, s.sp - 2#16] else []
  | .exAtSpHl | .exAtSpXy _ => [s.sp, s.sp + 1#16]
  | .ldi | .ldd | .ldir | .lddr => [s.de]
  | .ini | .ind | .inir | .indr => [s.hl]
  | _ => []

/-- The addresses an instruction stores to, the two rows that run another entry included: the DD/FD fallback (30_encoding.md
R137) and CB after DD or FD (R141). -/
def stores (i : Instr) (s : State) : List Word :=
  match i with
  | .fallbackXy _ op =>
    storesDirect (decodeMain (s.consultBp (s.pc - 1#16) op).1 (s.peek s.pc) (s.peek (s.pc + 1#16))) s
  | .prefixCbAfterXy xy => storesDirect (decodeIndexCB xy (s.peek s.pc) (s.peek (s.pc + 1#16))) s
  | _ => storesDirect i s

/-! ## Fetching -/

/-- The events of `n` operand reads from `a` on, newest first (an instruction has at most two operand bytes). -/
def operandEvents (s : State) (a : Word) (n : Nat) : List Event :=
  match n with
  | 0 => []
  | 1 => [.read a (s.peek a)]
  | _ => [.read (a + 1#16) (s.peek (a + 1#16)), .read a (s.peek a)]

/-- The state an instruction's rule starts from: the opcode byte at PC and `n` operand bytes fetched, PC past them, R
counted, the prefix consumed, and the enable delay ended where no prefix was pending (30_encoding.md R130, R131, R133). -/
def fetched (s : State) (n : Nat) : State :=
  { s with
    pc := s.pc + 1#16 + BitVec.ofNat 16 n
    r7 := s.r7 + 1#7
    qCur := false
    pfx := .noPfx
    pendingEI := s.pfx != .noPfx && s.pendingEI
    history := operandEvents s (s.pc + 1#16) n ++ (.fetch s.pc (s.peek s.pc) :: s.history) }

/-- The end of a step whose instruction left `o`: nothing while a prefix is pending; else Q recorded, the trace event, and
the interrupts sampled (R130, R138). -/
def finish (o : Result) : Result :=
  match o with
  | .next t =>
    if t.pfx = .noPfx then
      State.sampleInterrupts
        { t with
          qLast := t.qCur, qCur := false
          history := if t.traceEnabled then .boundary :: t.history else t.history }
    else .next t
  | .fault r => .fault r
  | .refused r => .refused r

/-! ## What a host names -/

/-- Whether a host's name is that of a byte register or half. -/
def isByteReg (name : RegName) : Bool :=
  match name with
  | .a | .f | .b | .c | .d | .e | .h | .l | .i | .r => true
  | .altA | .altF | .altB | .altC | .altD | .altE | .altH | .altL => true
  | .ixh | .ixl | .iyh | .iyl => true
  | .af | .bc | .de | .hl | .altAF | .altBC | .altDE | .altHL | .ix | .iy | .sp | .pc | .memptr => false

/-- The number a register holds: a pair is 256 times its high byte plus its low byte (10_state.md R20 to R26, R32). -/
def regValue (s : State) (name : RegName) : Nat :=
  match name with
  | .a => s.a.toNat | .f => s.f.toNat | .b => s.b.toNat | .c => s.c.toNat
  | .d => s.d.toNat | .e => s.e.toNat | .h => s.h.toNat | .l => s.l.toNat
  | .i => s.i.toNat | .r => 128 * s.rhi.toNat + s.r7.toNat
  | .altA => s.altA.toNat | .altF => s.altF.toNat | .altB => s.altB.toNat | .altC => s.altC.toNat
  | .altD => s.altD.toNat | .altE => s.altE.toNat | .altH => s.altH.toNat | .altL => s.altL.toNat
  | .ixh => s.ix.toNat / 256 | .ixl => s.ix.toNat % 256
  | .iyh => s.iy.toNat / 256 | .iyl => s.iy.toNat % 256
  | .af => 256 * s.a.toNat + s.f.toNat | .bc => 256 * s.b.toNat + s.c.toNat
  | .de => 256 * s.d.toNat + s.e.toNat | .hl => 256 * s.h.toNat + s.l.toNat
  | .altAF => 256 * s.altA.toNat + s.altF.toNat | .altBC => 256 * s.altB.toNat + s.altC.toNat
  | .altDE => 256 * s.altD.toNat + s.altE.toNat | .altHL => 256 * s.altH.toNat + s.altL.toNat
  | .ix => s.ix.toNat | .iy => s.iy.toNat | .sp => s.sp.toNat | .pc => s.pc.toNat | .memptr => s.memptr.toNat

/-- After a host writes the number `v` to a register: that register's fields and no other (R47). -/
def regWritten (s : State) (name : RegName) (v : Nat) : State :=
  match name with
  | .a => { s with a := byteOf v } | .f => { s with f := byteOf v } | .b => { s with b := byteOf v }
  | .c => { s with c := byteOf v } | .d => { s with d := byteOf v } | .e => { s with e := byteOf v }
  | .h => { s with h := byteOf v } | .l => { s with l := byteOf v } | .i => { s with i := byteOf v }
  | .r => { s with r7 := BitVec.ofNat 7 (v % 128), rhi := bitOf v 7 }
  | .altA => { s with altA := byteOf v } | .altF => { s with altF := byteOf v } | .altB => { s with altB := byteOf v }
  | .altC => { s with altC := byteOf v } | .altD => { s with altD := byteOf v } | .altE => { s with altE := byteOf v }
  | .altH => { s with altH := byteOf v } | .altL => { s with altL := byteOf v }
  | .ixh => { s with ix := wordOf (v * 256 + s.ix.toNat % 256) }
  | .ixl => { s with ix := wordOf (s.ix.toNat / 256 * 256 + v % 256) }
  | .iyh => { s with iy := wordOf (v * 256 + s.iy.toNat % 256) }
  | .iyl => { s with iy := wordOf (s.iy.toNat / 256 * 256 + v % 256) }
  | .af => { s with a := byteOf (v / 256), f := byteOf v } | .bc => { s with b := byteOf (v / 256), c := byteOf v }
  | .de => { s with d := byteOf (v / 256), e := byteOf v } | .hl => { s with h := byteOf (v / 256), l := byteOf v }
  | .altAF => { s with altA := byteOf (v / 256), altF := byteOf v }
  | .altBC => { s with altB := byteOf (v / 256), altC := byteOf v }
  | .altDE => { s with altD := byteOf (v / 256), altE := byteOf v }
  | .altHL => { s with altH := byteOf (v / 256), altL := byteOf v }
  | .ix => { s with ix := wordOf v } | .iy => { s with iy := wordOf v } | .sp => { s with sp := wordOf v }
  | .pc => { s with pc := wordOf v } | .memptr => { s with memptr := wordOf v }

/-- A flag of F at the position the spec gives it (R27). -/
def flagOf (f : Byte) (fl : FlagName) : Bool :=
  match fl with
  | .s => bitOf f.toNat 7 | .z => bitOf f.toNat 6 | .y => bitOf f.toNat 5 | .h => bitOf f.toNat 4
  | .x => bitOf f.toNat 3 | .pv => bitOf f.toNat 2 | .n => bitOf f.toNat 1 | .c => bitOf f.toNat 0

end Sys2Proof.Machine.Claim

open Sys2Proof Sys2Proof.Machine Sys2Proof.Machine.Claim

/-- For every state, a full reset gives every main and shadow register 0xFF, IX, IY, SP and MEMPTR 0xFFFF, PC 0, I 0, R 0, IFF1 and IFF2 false, IM 0, halted, pendingEI, nmiPending and qLast false, no prefix and no pin request, and changes nothing else: intLine, bp, traceEnabled and memory are as before. -/
def Obligations.FullResetValues : Prop :=
  ∀ s : State, s.fullReset =
    { s with
      a := 0xFF#8, f := 0xFF#8, b := 0xFF#8, c := 0xFF#8, d := 0xFF#8, e := 0xFF#8, h := 0xFF#8, l := 0xFF#8
      altA := 0xFF#8, altF := 0xFF#8, altB := 0xFF#8, altC := 0xFF#8, altD := 0xFF#8, altE := 0xFF#8
      altH := 0xFF#8, altL := 0xFF#8
      ix := 0xFFFF#16, iy := 0xFFFF#16, sp := 0xFFFF#16, memptr := 0xFFFF#16, pc := 0#16, i := 0#8
      r7 := 0#7, rhi := false, iff1 := false, iff2 := false, im := .im0, halted := false, pendingEI := false
      nmiPending := false, qLast := false, pfx := .noPfx, pinResetReq := false }

/-- For every state, a soft reset writes PC 0, R 0, IFF1 and IFF2 false, IM 0, no prefix, I 0, halted, pendingEI, nmiPending, qLast and pinResetReq false, and changes nothing else. -/
def Obligations.SoftResetValues : Prop :=
  ∀ s : State, s.softReset =
    { s with
      pc := 0#16, r7 := 0#7, rhi := false, iff1 := false, iff2 := false, im := .im0, pfx := .noPfx, i := 0#8
      halted := false, pendingEI := false, nmiPending := false, qLast := false, pinResetReq := false }

/-- The host's reset is the soft reset where the pin request is set and the full reset where it is not, with a busReset event; after either, in every state, PC is 0, no prefix is pending, the core is not halted, maskable interrupts are disabled, and memory, intLine, bp and traceEnabled are unchanged. The state after construction is unchanged by a full reset and is the core's reset state. That the event is recorded is the model's choice (log entry 10). -/
def Obligations.ResetOperationAndConstruction : Prop :=
  (∀ s : State,
    (s.pinResetReq = true → s.resetOp = ({ s with history := .busReset :: s.history } : State).softReset) ∧
    (s.pinResetReq = false → s.resetOp = ({ s with history := .busReset :: s.history } : State).fullReset) ∧
    s.resetOp.pc = 0#16 ∧ s.resetOp.pfx = .noPfx ∧ s.resetOp.halted = false ∧ s.resetOp.iff1 = false ∧
    s.resetOp.iff2 = false ∧ s.resetOp.im = .im0 ∧ s.resetOp.pendingEI = false ∧ s.resetOp.nmiPending = false ∧
    s.resetOp.qLast = false ∧ s.resetOp.pinResetReq = false ∧ s.resetOp.mem = s.mem ∧ s.resetOp.intLine = s.intLine ∧
    s.resetOp.bp = s.bp ∧ s.resetOp.traceEnabled = s.traceEnabled) ∧
  State.reset.fullReset = State.reset ∧ Sys2Proof.core.reset = State.reset

/-- Where a prefix is pending or PC is no breakpoint: if the bytes at PC decode, in the pending prefix state, to the instruction i, the step is exec of i from the state with the opcode byte and i's operand bytes fetched (PC past them, R counted once, the prefix consumed, the enable delay ended where no prefix was pending, the fetch and operand reads recorded), followed by the end of the step: nothing while a prefix is pending, else Q recorded, the trace event and the interrupt sampling. That operands are read ahead of exec is the model's choice (log entry 11). -/
def Obligations.StepRunsDecodedInstruction : Prop :=
  ∀ (s : State) (i : Instr), (s.pfx = .noPfx → s.bp.contains s.pc = false) →
    decodeAt s.pfx (s.peek s.pc) (s.peek (s.pc + 1#16)) (s.peek (s.pc + 2#16)) = i →
    step s = finish (exec i (fetched s i.operandBytes))

/-- With no prefix pending and a breakpoint at PC, the step is that of the instruction the hook's answer selects; the fetch event still records the byte memory returned, the call of the hook is recorded, memory is not written by the substitution, and a hook without a matching entry answers the byte itself. The model's choices in this: the hook is a table whose no-match case is the identity (log entry 6, DESIGN CHOICE), the call is recorded as an event (log entry 10, DESIGN CHOICE) and the operands of a substituted opcode are those in memory (log entry 20, DEDUCED). -/
def Obligations.BreakpointSubstitutesForDecodingOnly : Prop :=
  ∀ (s : State) (i : Instr) (op : Byte), s.pfx = .noPfx → s.bp.contains s.pc = true →
    hookResult s.bpHook s.pc (s.peek s.pc) = op →
    decodeMain op (s.peek (s.pc + 1#16)) (s.peek (s.pc + 2#16)) = i →
    step s = finish (exec i
      { fetched s i.operandBytes with
        history := operandEvents s (s.pc + 1#16) i.operandBytes ++
          (.breakpoint s.pc (s.peek s.pc) op :: .fetch s.pc (s.peek s.pc) :: s.history) }) ∧
    ((∀ e ∈ s.bpHook, e.addr = s.pc → e.op ≠ s.peek s.pc) → op = s.peek s.pc)

/-- For every state: if a step leaves a prefix pending, then against the state before it only PC (one past), R (counted once), the prefix, the step's qCur (false), pendingEI and the history differ: no register, flag, latch or memory byte changes and no interrupt, NMI included, is accepted. -/
def Obligations.PrefixByteStepOnlyRecordsThePrefix : Prop :=
  ∀ s t : State, step s = .next t → t.pfx ≠ .noPfx →
    t = { s with
      pc := s.pc + 1#16, r7 := s.r7 + 1#7, qCur := false, pfx := t.pfx
      pendingEI := s.pfx != .noPfx && s.pendingEI, history := t.history }

/-- CB, ED, DD and FD with no prefix pending set the prefix to that byte; DD or FD after DD or FD replaces it; ED after DD or FD discards the index prefix. -/
def Obligations.PrefixChainsKeepTheLastPrefix : Prop :=
  ∀ (s : State) (xy : IndexReg),
    exec .prefixCb s = .next { s with pfx := .cb } ∧
    exec .prefixEd s = .next { s with pfx := .ed } ∧
    exec (.prefixXy .ix) s = .next { s with pfx := .dd } ∧
    exec (.prefixXy .iy) s = .next { s with pfx := .fd } ∧
    exec (.prefixChain xy .ix) s = .next { s with pfx := .dd } ∧
    exec (.prefixChain xy .iy) s = .next { s with pfx := .fd } ∧
    exec (.prefixEdAfterXy xy) s = .next { s with pfx := .ed }

/-- For every opcode byte that the index table does not override, and no breakpoint at the byte's own address, exec of the fallback completes and is exec of the main-table instruction of that byte, whose operand bytes are fetched first; at a breakpoint the hook's byte stands in its place and the hook's call is recorded, and exec still completes. The model's choices in this: the row runs its entry inside exec (log entry 12, DEDUCED), the hook's call is recorded (log entry 10, DESIGN CHOICE), and a substituted byte takes its operands from memory and, if it is a prefix byte, sets that prefix (log entry 20, DEDUCED). -/
def Obligations.FallbackRunsTheMainTableEntry : Prop :=
  ∀ (s : State) (xy : IndexReg) (op : Byte), isFallback op = true →
    (s.bp.contains (s.pc - 1#16) = false →
      let i := decodeMain op (s.peek s.pc) (s.peek (s.pc + 1#16))
      exec (.fallbackXy xy op) s = exec i
        { s with
          pc := s.pc + BitVec.ofNat 16 i.operandBytes
          history := operandEvents s s.pc i.operandBytes ++ s.history }) ∧
    (s.bp.contains (s.pc - 1#16) = true →
      let op' := hookResult s.bpHook (s.pc - 1#16) op
      let i := decodeMain op' (s.peek s.pc) (s.peek (s.pc + 1#16))
      exec (.fallbackXy xy op) s = exec i
        { s with
          pc := s.pc + BitVec.ofNat 16 i.operandBytes
          history := operandEvents s s.pc i.operandBytes ++ (.breakpoint (s.pc - 1#16) op op' :: s.history) }) ∧
    ∃ t, exec (.fallbackXy xy op) s = .next t

/-- Exec of the row that enters the DD/FD CB form completes and is exec of the DD/FD CB entry of the byte at PC + 1, with the byte at PC as displacement, from the state with both bytes read as operands: PC two further, R not counted. -/
def Obligations.IndexCbReadsDisplacementThenOpcode : Prop :=
  ∀ (s : State) (xy : IndexReg),
    (exec (.prefixCbAfterXy xy) s =
      exec (decodeIndexCB xy (s.peek s.pc) (s.peek (s.pc + 1#16)))
        { s with pc := s.pc + 2#16, history := operandEvents s s.pc 2 ++ s.history }) ∧
    ∃ t, exec (.prefixCbAfterXy xy) s = .next t

/-- For every instruction and every state, exec answers a next state: no instruction raises an exception, faults or is refused, and there is no mode in which one traps. In that state the line, a pending NMI, the pin request, the breakpoints and their hook, trace mode, the parameters and the acknowledge bytes are unchanged. -/
def Obligations.EveryInstructionCompletes : Prop :=
  ∀ (i : Instr) (s : State), ∃ t, exec i s = .next t ∧
    t.intLine = s.intLine ∧ t.nmiPending = s.nmiPending ∧ t.pinResetReq = s.pinResetReq ∧ t.bp = s.bp ∧
    t.bpHook = s.bpHook ∧ t.traceEnabled = s.traceEnabled ∧ t.params = s.params ∧ t.ackInputs = s.ackInputs ∧
    t.ackDraws = s.ackDraws ∧ t.qLast = s.qLast

/-- For every state, the step answers a next state, or its instruction answered a state u at a boundary (no prefix pending) with interrupt mode 0, IFF1 set, no enable delay, the line asserted and no NMI pending, and the step faults with im0NotRST of the acknowledge byte, which is no RST opcode; the line and the absence of an NMI are those of before the step. No step is refused and none faults with badPrefixState. The model's choices in this: the acknowledge byte is a draw from the host's queue or a free value (log entry 5, DESIGN CHOICE), and the fault is the step's whole outcome, with no state (log entry 13, DEDUCED). -/
def Obligations.StepFaultsOnlyAtAnIm0Acknowledge : Prop :=
  ∀ s : State, (∃ t, step s = .next t) ∨
    (step s = .fault (.im0NotRST (ackByte s)) ∧ ackByte s &&& 0xC7#8 ≠ 0xC7#8 ∧ s.intLine = true ∧ s.nmiPending = false ∧
      ∃ u, exec s.fetchInstr.1 s.fetchInstr.2 = .next u ∧ u.pfx = .noPfx ∧ u.im = .im0 ∧ u.iff1 = true ∧
        u.pendingEI = false ∧ u.intLine = true ∧ u.nmiPending = false ∧ ackByte u = ackByte s)

/-- In every state with an NMI pending, whatever IFF1, pendingEI and the line are, sampling accepts it: the discarded fetch at PC is recorded, the core wakes if it was halted (the pushed address is then one past PC), R is counted once, IFF1 is cleared and IFF2 kept, Q is cleared, the return address is pushed high byte first, PC and MEMPTR become 0x0066, the request is cleared, and nothing else changes (pendingEI among the rest). -/
def Obligations.NmiAcceptance : Prop :=
  ∀ s : State, s.nmiPending = true →
    s.sampleInterrupts = .next
      { entered { s with history := .fetch s.pc (s.peek s.pc) :: s.history } s.iff2 with
        nmiPending := false, pc := 0x0066#16, memptr := 0x0066#16 }

/-- In every state with no NMI pending, IFF1 set, no enable delay and the line asserted, sampling draws the acknowledge byte (recorded), wakes the core, counts R, clears IFF1, IFF2 and Q and pushes the return address; then PC and MEMPTR become: in IM 0 the byte's RST target where the byte is an RST opcode (else the step faults with that byte), in IM 1 0x0038, in IM 2 the word at I:byte, any byte, read low byte first after the push. Nothing else changes. With no NMI pending, sampling changes nothing where IFF1 is clear, the delay runs or the line is low. The model's choices in this: how the draw is held (log entry 5, DESIGN CHOICE) and that the fault is the whole outcome, with no state (log entry 13, DEDUCED). -/
def Obligations.MaskableAcceptanceByMode : Prop :=
  (∀ s : State, s.nmiPending = false → s.iff1 = true → s.pendingEI = false → s.intLine = true →
    let u := entered (afterAck s) false
    (s.im = .im0 → ackByte s &&& 0xC7#8 = 0xC7#8 →
      s.sampleInterrupts = .next
        { u with pc := wordOf (ackByte s &&& 0x38#8).toNat, memptr := wordOf (ackByte s &&& 0x38#8).toNat }) ∧
    (s.im = .im0 → ackByte s &&& 0xC7#8 ≠ 0xC7#8 → s.sampleInterrupts = .fault (.im0NotRST (ackByte s))) ∧
    (s.im = .im1 → s.sampleInterrupts = .next { u with pc := 0x0038#16, memptr := 0x0038#16 }) ∧
    (s.im = .im2 →
      let entry := wordOf (s.i.toNat * 256 + (ackByte s).toNat)
      s.sampleInterrupts = .next
        { loaded (loaded u entry) (entry + 1#16) with pc := wordAt u entry, memptr := wordAt u entry })) ∧
  (∀ s : State, s.nmiPending = false → (s.iff1 = false ∨ s.pendingEI = true ∨ s.intLine = false) →
    s.sampleInterrupts = .next s)

/-- RETI (ED 4D only) and RETN (ED 01 yyy 101, y not 1), every duplicate of RETN: PC and MEMPTR become the word at SP, SP is two higher, IFF1 becomes IFF2, and nothing else changes: no flag, no enable delay. -/
def Obligations.ReturnFromInterruptRestoresEnable : Prop :=
  ∀ (s : State) (dup : BitVec 3),
    let t := { popped s with pc := wordAt s s.sp, memptr := wordAt s s.sp, iff1 := s.iff2 }
    exec .reti s = .next t ∧ exec (.retn dup) s = .next t ∧ encode .reti = [0xED#8, 0x4D#8] ∧
    encode (.retn dup) = [0xED#8, BitVec.ofNat 8 (0x45 + 8 * dup.toNat)] ∧ (Instr.retn dup).wf = decide (dup.toNat ≠ 1)

/-- An unprefixed EI at PC that is no breakpoint, with no NMI pending and trace off, whatever the line: after its step IFF1, IFF2 and pendingEI are true, PC and R are one further, Q is clear, nothing is pushed. From any state with no prefix pending, the instruction after it starts with pendingEI false. With an NMI pending the boundary that ends EI accepts it and keeps IFF2 true. -/
def Obligations.EnableDelayHoldsOffOneInstruction : Prop :=
  (∀ s : State, s.pfx = .noPfx → s.bp.contains s.pc = false → s.peek s.pc = 0xFB#8 → s.traceEnabled = false →
    let u := { s with
      pc := s.pc + 1#16, r7 := s.r7 + 1#7, iff1 := true, iff2 := true, pendingEI := true, qLast := false, qCur := false
      history := .fetch s.pc 0xFB#8 :: s.history }
    (s.nmiPending = false → step s = .next u) ∧
    (s.nmiPending = true →
      step s = .next
        { entered { u with history := .fetch u.pc (u.peek u.pc) :: u.history } true with
          nmiPending := false, pc := 0x0066#16, memptr := 0x0066#16 })) ∧
  (∀ s : State, s.pfx = .noPfx → s.fetchInstr.2.pendingEI = false)

/-- From every state halted at a HALT byte with IFF1 clear, no NMI pending, no prefix pending and no breakpoint at PC, any number k of steps ends in a next state that is still halted at the same PC with every register, flag, latch and memory byte unchanged but R, which is k higher modulo 128; pendingEI and Q (both cleared by the first step) and the recorded history are the only other differences. -/
def Obligations.HaltedForGoodStaysHalted : Prop :=
  ∀ (s : State) (k : Nat), s.halted = true → s.iff1 = false → s.nmiPending = false → s.pfx = .noPfx →
    s.bp.contains s.pc = false → s.peek s.pc = 0x76#8 →
    ∃ t, Sys2Proof.core.run k s = .next t ∧
      t = { s with
        r7 := s.r7 + BitVec.ofNat 7 k
        pendingEI := decide (k = 0) && s.pendingEI, qLast := decide (k = 0) && s.qLast, qCur := decide (k = 0) && s.qCur
        history := t.history }

/-- For every step whose instruction is not LD R,A: bit 7 of R is unchanged, and its low seven bits are one higher where the step leaves a prefix pending or its boundary accepts nothing, two higher where it accepts an NMI or a maskable interrupt. -/
def Obligations.RefreshCounterCounting : Prop :=
  ∀ s u t : State, exec s.fetchInstr.1 s.fetchInstr.2 = .next u → step s = .next t → s.fetchInstr.1 ≠ .ldRA →
    t.rhi = s.rhi ∧
    t.r7 = s.r7 + 1#7 +
      (if u.pfx = .noPfx ∧ (u.nmiPending = true ∨ (u.iff1 = true ∧ u.pendingEI = false ∧ u.intLine = true)) then 1#7
        else 0#7)

/-- For every state with memory in canonical form (log entry 3) and an NMI pending: sampling accepts it into some state u; RETN run from u (as exec does, PC already past it) gives PC the return address, SP its value before the acceptance and IFF1 the IFF2 of before, with every general register, F, IFF2 and IM as before. -/
def Obligations.NmiThenRetnRestores : Prop :=
  ∀ s : State, s.mem.wf = true → s.nmiPending = true →
    ∃ u t, s.sampleInterrupts = .next u ∧ exec (.retn 0#3) u = .next t ∧
      t.pc = returnAddress s ∧ t.sp = s.sp ∧ t.iff1 = s.iff2 ∧ t.iff2 = s.iff2 ∧ t.im = s.im ∧ t.halted = false ∧
      t.af = s.af ∧ t.bc = s.bc ∧ t.de = s.de ∧ t.hl = s.hl ∧ t.ix = s.ix ∧ t.iy = s.iy ∧ t.i = s.i

/-- If memory is in canonical form, the breakpoint set is strictly rising, qCur is false, no enable delay runs while a prefix is pending, IFF1 is set only with IFF2, and IFF2 is set while the enable delay runs, then all of this holds after every step that answers a next state. Three parts of the invariant are the model's own: the canonical form of memory (log entry 3), the strictly rising breakpoint list (log entry 8) and qCur false between steps (log entry 9; R130 only makes qCur a local of the step), each a DESIGN CHOICE. -/
def Obligations.StepKeepsTheInvariant : Prop :=
  ∀ s t : State, s.Inv → step s = .next t → t.Inv

/-- The invariant that every step keeps holds of the reset state, and the reset operation (full, or soft under a pin request) keeps it: what it gives meets the invariant wherever the state before did. Three parts of the invariant are the model's own: the canonical form of memory (log entry 3), the strictly rising breakpoint list (log entry 8) and qCur false between steps (log entry 9), each a DESIGN CHOICE. -/
def Obligations.ResetMeetsTheInvariant : Prop :=
  State.reset.Inv ∧ ∀ s : State, s.Inv → s.resetOp.Inv

/-- For every state with no breakpoint set: if halted implies that no prefix is pending and the byte at PC is HALT (0x76), the same holds after every step that answers a next state. (A host that rewrites that byte ends it: D23.) -/
def Obligations.HaltedCoreStandsAtItsHaltByte : Prop :=
  ∀ s t : State, s.bp = [] → (s.halted = true → s.pfx = .noPfx ∧ s.peek s.pc = 0x76#8) → step s = .next t →
    t.bp = [] ∧ (t.halted = true → t.pfx = .noPfx ∧ t.peek t.pc = 0x76#8)

/-- For every instruction other than the fallback row (which runs another entry): exec changes I only in LD I,A; IM only in IM 0, IM 1, IM 2; IFF1 only in DI, EI, RETI, RETN; IFF2 only in DI, EI; halted only in HALT; pendingEI only in EI. For the fallback with no breakpoint at its byte the same holds with the unprefixed opcodes: I and IM never, IFF1 and IFF2 only for 0xF3 and 0xFB, halted only for 0x76, pendingEI only for 0xFB. -/
def Obligations.InterruptRegistersHaveTheirWriters : Prop :=
  (∀ (i : Instr) (s t : State), exec i s = .next t → (∀ xy op, i ≠ .fallbackXy xy op) →
    (i ≠ .ldIA → t.i = s.i) ∧
    ((∀ d, i ≠ .im0 d) → (∀ d, i ≠ .im1 d) → (∀ d, i ≠ .im2 d) → t.im = s.im) ∧
    (i ≠ .di → i ≠ .ei → t.iff2 = s.iff2 ∧ (i ≠ .reti → (∀ d, i ≠ .retn d) → t.iff1 = s.iff1)) ∧
    (i ≠ .halt → t.halted = s.halted) ∧ (i ≠ .ei → t.pendingEI = s.pendingEI)) ∧
  (∀ (xy : IndexReg) (op : Byte) (s t : State), exec (.fallbackXy xy op) s = .next t →
    s.bp.contains (s.pc - 1#16) = false → isFallback op = true →
    t.i = s.i ∧ t.im = s.im ∧ (op ≠ 0xF3#8 → op ≠ 0xFB#8 → t.iff1 = s.iff1 ∧ t.iff2 = s.iff2) ∧
    (op ≠ 0x76#8 → t.halted = s.halted) ∧ (op ≠ 0xFB#8 → t.pendingEI = s.pendingEI))

/-- For every instruction other than those two and the fallback row, exec leaves all eight shadow registers unchanged; so does the fallback of every opcode but 0x08 and 0xD9 with no breakpoint at its byte. -/
def Obligations.ShadowRegistersOnlyExchanged : Prop :=
  ∀ (i : Instr) (s t : State), exec i s = .next t → i ≠ .exAfAf → i ≠ .exx →
    (∀ xy op, i = .fallbackXy xy op → op ≠ 0x08#8 ∧ op ≠ 0xD9#8 ∧ isFallback op = true ∧ s.bp.contains (s.pc - 1#16) = false) →
    t.altA = s.altA ∧ t.altF = s.altF ∧ t.altB = s.altB ∧ t.altC = s.altC ∧ t.altD = s.altD ∧ t.altE = s.altE ∧
    t.altH = s.altH ∧ t.altL = s.altL

/-- The instruction of any byte in prefix state NONE, CB or ED leaves IX and IY unchanged; in state DD it leaves IY, and in state FD it leaves IX, unchanged. -/
def Obligations.IndexRegistersNeedTheirPrefix : Prop :=
  ∀ (p : Pfx) (op o1 o2 : Byte) (s t : State), exec (decodeAt p op o1 o2) s = .next t →
    (p ≠ .dd → t.ix = s.ix) ∧ (p ≠ .fd → t.iy = s.iy)

/-- For every instruction and state: every address outside the addresses the instruction stores to (computed from the state its rule starts from: (HL), (BC), (DE), nn, (XY+d), the stack slots, the block destination; none for every other form) reads after exec as it read before. -/
def Obligations.OnlyStoringFormsChangeMemory : Prop :=
  ∀ (i : Instr) (s t : State), exec i s = .next t → ∀ a : Word, a ∉ stores i s → t.peek a = s.peek a

/-- The recorded history is only ever added to and no step reads it, nor the model's qCur: from two states that agree on everything else, the steps have the same outcome, faults included, add the same events and end in states that agree on everything but the older history. A step may read every other field: the snapshot's, memory, bp, bpHook, traceEnabled, params, the host's supplied bytes and the draw counters. The two fields are the model's choice: qCur log entry 9, the history as a field log entry 10 (each a DESIGN CHOICE). -/
def Obligations.StepIgnoresHistoryAndScratch : Prop :=
  ∀ (s : State) (h : List Event) (q : Bool),
    (∀ t, step s = .next t → ∃ events, t.history = events ++ s.history ∧
      step { s with history := h, qCur := q } = .next { t with history := events ++ h }) ∧
    (∀ r, step s = .fault r → step { s with history := h, qCur := q } = .fault r)

/-- Importing the snapshot of s into any u that agrees with s on memory, debug configuration, parameters, host inputs and the model's own fields gives s itself, so every later run is the same; exporting after an import gives the snapshot back. (What a snapshot leaves out is log entry 19.) -/
def Obligations.SnapshotRoundTrip : Prop :=
  (∀ s u : State, u.bp = s.bp → u.traceEnabled = s.traceEnabled → u.mem = s.mem → u.bpHook = s.bpHook →
    u.history = s.history → u.portInputs = s.portInputs → u.ackInputs = s.ackInputs → u.params = s.params →
    u.portDraws = s.portDraws → u.ackDraws = s.ackDraws → u.qCur = s.qCur →
    ∀ k, Sys2Proof.core.run k (u.importSnapshot s.exportSnapshot) = Sys2Proof.core.run k s) ∧
  (∀ (s : State) (n : Snapshot), (s.importSnapshot n).exportSnapshot = n)

/-- Every move, with its frame (all fields not named are as before, the history too). Assert and deassert set only the line, an NMI trigger only nmiPending, a pin-reset request only pinResetReq, the mode mutators only their field, trace mode and the hook only theirs. An accessor answers the register's value; a write changes that register alone (of a half or of R, only its bits), reduced to 8 or 16 bits, and reads back so. A flag write changes that flag of F alone. Enabling a breakpoint makes its address, and no other, newly a member; disabling takes only it out; bp alone changes and stays strictly rising. A memory byte reads back, every other byte is as before, only memory changes and its canonical form is kept. A supplied port or acknowledge byte goes to the end of its queue, and is the next byte drawn where the queue was empty. Importing a snapshot gives its fields and keeps the others; the reset move is the reset operation. The model's choices in this: the moves as functions (log entry 17), the rising list (log entry 8), canonical memory (log entry 3), the queues (log entries 4 and 5), the hook as a table (log entry 6), what an import keeps (log entry 19), each a DESIGN CHOICE. -/
def Obligations.HostMovesDoOneThing : Prop :=
  (∀ s : State, HostAction.assertInt.apply s = { s with intLine := true } ∧
    HostAction.deassertInt.apply s = { s with intLine := false } ∧
    HostAction.triggerNmi.apply s = { s with nmiPending := true } ∧
    HostAction.requestPinReset.apply s = { s with pinResetReq := true } ∧ HostAction.reset.apply s = s.resetOp) ∧
  (∀ (s : State) (v : Bool) (m : IMode) (p : Pfx) (table : List HookEntry),
    (HostAction.setQLast v).apply s = { s with qLast := v } ∧ (HostAction.setIff1 v).apply s = { s with iff1 := v } ∧
    (HostAction.setIff2 v).apply s = { s with iff2 := v } ∧ (HostAction.setIM m).apply s = { s with im := m } ∧
    (HostAction.setHalted v).apply s = { s with halted := v } ∧
    (HostAction.setPendingEI v).apply s = { s with pendingEI := v } ∧
    (HostAction.setNmiPending v).apply s = { s with nmiPending := v } ∧
    (HostAction.setPrefix p).apply s = { s with pfx := p } ∧ (HostAction.setTrace v).apply s = { s with traceEnabled := v } ∧
    (HostAction.setHook table).apply s = { s with bpHook := table }) ∧
  (∀ (s : State) (name : RegName) (v : Nat), s.readReg name = regValue s name ∧
    (HostAction.writeReg name v).apply s = regWritten s name v ∧
    ((HostAction.writeReg name v).apply s).readReg name = v % (if isByteReg name then 256 else 65536)) ∧
  (∀ (s : State) (fl : FlagName) (v : Bool), { (HostAction.writeFlag fl v).apply s with f := s.f } = s ∧
    s.readFlag fl = flagOf s.f fl ∧
    ∀ g, ((HostAction.writeFlag fl v).apply s).readFlag g = if g = fl then v else s.readFlag g) ∧
  (∀ (s : State) (x y : Word),
    ((HostAction.enableBreakpoint x).apply s).queryBreakpoint y = (decide (y = x) || s.queryBreakpoint y) ∧
    ((HostAction.disableBreakpoint x).apply s).queryBreakpoint y = (decide (y ≠ x) && s.queryBreakpoint y) ∧
    (s.queryBreakpoint y = true ↔ y ∈ s.bp) ∧
    { (HostAction.enableBreakpoint x).apply s with bp := s.bp } = s ∧
    { (HostAction.disableBreakpoint x).apply s with bp := s.bp } = s) ∧
  (∀ (s : State) (x : Word), rising s.bp = true →
    rising ((HostAction.enableBreakpoint x).apply s).bp = true ∧ rising ((HostAction.disableBreakpoint x).apply s).bp = true) ∧
  (∀ (s : State) (x : Word) (v : Byte), { (HostAction.writeMemory x v).apply s with mem := s.mem } = s ∧
    (s.mem.wf = true → ((HostAction.writeMemory x v).apply s).mem.wf = true ∧
      ∀ y, ((HostAction.writeMemory x v).apply s).peek y = if y = x then v else s.peek y)) ∧
  (∀ (s : State) (v : Byte),
    (HostAction.supplyPortByte v).apply s = { s with portInputs := s.portInputs ++ [v] } ∧
    (s.portInputs = [] → ∀ p, (((HostAction.supplyPortByte v).apply s).portRead p).1 = v) ∧
    (HostAction.supplyAckByte v).apply s = { s with ackInputs := s.ackInputs ++ [v] } ∧
    (s.ackInputs = [] → ((HostAction.supplyAckByte v).apply s).drawAck.1 = v)) ∧
  (∀ (s : State) (n : Snapshot),
    ((HostAction.importSnapshot n).apply s).exportSnapshot = n ∧
    ∀ t, t = (HostAction.importSnapshot n).apply s →
      t.bp = s.bp ∧ t.traceEnabled = s.traceEnabled ∧ t.mem = s.mem ∧ t.bpHook = s.bpHook ∧ t.history = s.history ∧
      t.portInputs = s.portInputs ∧ t.ackInputs = s.ackInputs ∧ t.params = s.params ∧ t.portDraws = s.portDraws ∧
      t.ackDraws = s.ackDraws ∧ t.qCur = s.qCur)

/-- For every memory: reading an address after a write to it gives the byte written, every other address reads as before, the canonical form is kept, and two memories in canonical form that read the same everywhere are the same list. MemRead and MemWrite of one byte record their access. A word write stores the low byte at a, then the high byte at a + 1 modulo 2^16; a word read reads a, then a + 1, and answers high:low. The canonical form is the model's own (log entry 3). -/
def Obligations.MemoryIsRamAndWordsAreLittleEndian : Prop :=
  (∀ (m : Memory) (a : Word) (v : Byte), m.wf = true → (m.write a v).wf = true ∧ (m.write a v).read a = v ∧
    ∀ b : Word, b ≠ a → (m.write a v).read b = m.read b) ∧
  (∀ m n : Memory, m.wf = true → n.wf = true → (∀ a : Word, m.read a = n.read a) → m = n) ∧
  (∀ (s : State) (a : Word) (v : Byte), s.memRead a = (s.peek a, loaded s a) ∧ s.memWrite a v = stored s a v) ∧
  (∀ (s : State) (a v : Word),
    s.memWrite16 a v = stored (stored s a (byteOf v.toNat)) (a + 1#16) (byteOf (v.toNat / 256)) ∧
    s.memRead16 a = (wordAt s a, loaded (loaded s a) (a + 1#16)) ∧
    (s.mem.wf = true → ((s.memWrite16 a v).memRead16 a).1 = v))

/-- In every state: Push16 leaves SP two lower (modulo 2^16), having stored the high byte at old SP - 1 and then the low byte at old SP - 2; Pop16 reads SP and then SP + 1, leaves SP two higher and answers high:low. With memory in canonical form, after a push the two bytes read back, every other byte is unchanged, the word at the new SP reads back, and a pop answers it and restores SP. The canonical form is the model's own (log entry 3, DESIGN CHOICE); that the addresses are these after a full reset too, against a sentence of R710, is log entry 21 (DEDUCED). -/
def Obligations.PushThenPopReturnsTheWord : Prop :=
  ∀ (s : State) (v : Word), s.push16 v = pushed s v ∧ s.pop16 = (wordAt s s.sp, popped s) ∧
    (s.mem.wf = true →
      (s.push16 v).peek (s.sp - 1#16) = byteOf (v.toNat / 256) ∧ (s.push16 v).peek (s.sp - 2#16) = byteOf v.toNat ∧
      (∀ a : Word, a ≠ s.sp - 1#16 → a ≠ s.sp - 2#16 → (s.push16 v).peek a = s.peek a) ∧
      wordAt (s.push16 v) (s.push16 v).sp = v ∧ (s.push16 v).pop16.1 = v ∧ (s.push16 v).pop16.2.sp = s.sp)

/-- For every well-formed instruction, decoding its encoding gives exactly that instruction and no byte left; and with any bytes after it, the instruction and those bytes, for every row but the four that another byte would continue (the CB, ED, DD/FD prefix rows and CB after DD or FD). -/
def Obligations.DecodeEncodeRoundTrip : Prop :=
  (∀ i : Instr, i.wf = true → decode (encode i) = .ok (i, [])) ∧
  (∀ (i : Instr) (rest : List Byte), i.wf = true → i ≠ .prefixCb → i ≠ .prefixEd → (∀ xy, i ≠ .prefixXy xy) →
    (∀ xy, i ≠ .prefixCbAfterXy xy) → decode (encode i ++ rest) = .ok (i, rest))

/-- For every byte sequence the decoder accepts, the instruction it answers is well-formed and its encoding followed by the bytes left over is the sequence itself: no bit is ignored. Every sequence of at least four bytes is accepted. -/
def Obligations.EncodeDecodeReproducesTheBytes : Prop :=
  (∀ (bytes rest : List Byte) (i : Instr), decode bytes = .ok (i, rest) → i.wf = true ∧ encode i ++ rest = bytes) ∧
  (∀ bytes : List Byte, 4 ≤ bytes.length → ∃ i rest, decode bytes = .ok (i, rest))

/-- In state DD or FD a byte decodes to the fallback of itself exactly where the index map marks it, which is 167 of the 256 bytes, HALT among them and none of CB, DD, ED, FD; in state ED a byte decodes to the no-operation exactly where it is unassigned, which is 178 bytes. -/
def Obligations.FallbackCellsOfTheIndexMap : Prop :=
  (∀ (xy : IndexReg) (op o1 o2 : Byte), decodeIndex xy op o1 o2 = .fallbackXy xy op ↔ isFallback op = true) ∧
  (∀ op o1 o2 : Byte, decodeED op o1 o2 = .nopEd op ↔ edUnassigned op = true) ∧
  ((List.range 256).countP (fun n => isFallback (BitVec.ofNat 8 n))) = 167 ∧ isFallback 0x76#8 = true ∧
  isFallback 0xCB#8 = false ∧ isFallback 0xDD#8 = false ∧ isFallback 0xED#8 = false ∧ isFallback 0xFD#8 = false ∧
  ((List.range 256).countP (fun n => edUnassigned (BitVec.ofNat 8 n))) = 178

/-- One word of each family, written bit by bit from its encoding, decodes to its instruction. -/
def Obligations.SpecWordsDecode : Prop :=
  decode [0b01000001#8] = .ok (.ldRR .b .c, []) ∧
  decode [0b00010001#8, 0x34#8, 0x12#8] = .ok (.ldRpNn .de 0x1234#16, []) ∧
  decode [0xED#8, 0b10100000#8] = .ok (.ldi, []) ∧
  decode [0b10100001#8] = .ok (.andR .c, []) ∧
  decode [0b00111111#8] = .ok (.ccf, []) ∧
  decode [0b00101001#8] = .ok (.addHlRp .hl, []) ∧
  decode [0xCB#8, 0b00000111#8] = .ok (.rlcR .a, []) ∧
  decode [0xFD#8, 0xCB#8, 0x05#8, 0b01011110#8] = .ok (.bitAtXyD .iy 0x05#8 3#3 6#3, []) ∧
  decode [0b11001001#8] = .ok (.ret, []) ∧
  decode [0b11011011#8, 0xFE#8] = .ok (.inAAtN 0xFE#8, []) ∧
  decode [0xDD#8, 0b01110101#8, 0x80#8] = .ok (.ldAtXyDR .ix 0x80#8 .l, [])

/-- Each of these loads completes with the destination holding the source value of before (a register, the immediate, the byte at HL, the byte at XY + d with the real H and L, a half of XY); the other 8-bit registers, or the other half of XY and the other index register, and everything else are unchanged, but MEMPTR, which is the address for (XY+d) only, and the recorded read. -/
def Obligations.RegisterLoads : Prop :=
  ∀ (s : State) (r r' : Reg8) (n d : Byte) (xy : IndexReg) (half : Half) (src : RegXy),
    let Loads := fun (i : Instr) (u : State) (v : Byte) => ∃ t, exec i s = .next t ∧ t.reg8 r = v ∧
      (∀ q, q ≠ r → t.reg8 q = s.reg8 q) ∧
      { t with a := s.a, b := s.b, c := s.c, d := s.d, e := s.e, h := s.h, l := s.l } = u
    let Sets := fun (i : Instr) (v : Byte) => ∃ t, exec i s = .next t ∧ halfByte t xy half = v ∧
      (∀ q k, (q ≠ xy ∨ k ≠ half) → halfByte t q k = halfByte s q k) ∧ { t with ix := s.ix, iy := s.iy } = s
    Loads (.ldRR r r') s (s.reg8 r') ∧ Loads (.ldRN r n) s n ∧ Loads (.ldRAtHl r) (readHl s) (s.peek s.hl) ∧
    Loads (.ldRAtXyD xy r d) (readXy s xy d) (s.peek (addr s xy d)) ∧
    Loads (.ldRXyHalf xy r half) s (halfByte s xy half) ∧
    Sets (.ldXyHalfN xy half n) n ∧
    Sets (.ldXyHalfR xy half src) (match src with
      | .b => s.b | .c => s.c | .d => s.d | .e => s.e | .xyh => halfByte s xy .high | .xyl => halfByte s xy .low
      | .a => s.a)

/-- Stores put exactly their byte at HL, or at XY + d with MEMPTR the address, or A at the pointer with MEMPTR A as high byte and the low byte of the pointer plus 1 without carry; loads give A the byte at the pointer and MEMPTR the pointer plus 1. No other register, flag or byte changes. -/
def Obligations.ByteStoresAndAccumulatorLoads : Prop :=
  ∀ (s : State) (r : Reg8) (n d : Byte) (xy : IndexReg) (nn : Word),
    let load := fun (p : Word) => { loaded s p with a := s.peek p, memptr := p + 1#16 }
    let store := fun (p : Word) => { stored s p s.a with memptr := wordOf (s.a.toNat * 256 + (p.toNat + 1) % 256) }
    let storeXy := fun (v : Byte) => { stored s (addr s xy d) v with memptr := addr s xy d }
    exec (.ldAtHlR r) s = .next (stored s s.hl (s.reg8 r)) ∧ exec (.ldAtHlN n) s = .next (stored s s.hl n) ∧
    exec (.ldAtXyDR xy d r) s = .next (storeXy (s.reg8 r)) ∧ exec (.ldAtXyDN xy d n) s = .next (storeXy n) ∧
    exec .ldAAtBc s = .next (load s.bc) ∧ exec .ldAAtDe s = .next (load s.de) ∧ exec (.ldAAtNn nn) s = .next (load nn) ∧
    exec .ldAtBcA s = .next (store s.bc) ∧ exec .ldAtDeA s = .next (store s.de) ∧
    exec (.ldAtNnA nn) s = .next (store nn)

/-- LD A,I and LD A,R copy I or R (bit 7 held apart) to A with S, Z, Y, X from it, H and N 0, C kept, and PV = IFF2 and not (ldAirIntQuirk and intLine), Q set; LD I,A and LD R,A write I, or R with its bit 7, and no flag. -/
def Obligations.InterruptAndRefreshLoads : Prop :=
  ∀ s : State,
    let take := fun (v : Byte) => { s with
      a := v
      f := mkF (128 ≤ v.toNat) (v.toNat = 0) (bitOf v.toNat 5) false (bitOf v.toNat 3)
        (s.iff2 && !(s.params.ldAirIntQuirk && s.intLine)) false (flagC s.f)
      qCur := true }
    exec .ldAI s = .next (take s.i) ∧ exec .ldAR s = .next (take (byteOf (s.r7.toNat + 128 * s.rhi.toNat))) ∧
    exec .ldIA s = .next { s with i := s.a } ∧
    exec .ldRA s = .next { s with r7 := BitVec.ofNat 7 s.a.toNat, rhi := decide (128 ≤ s.a.toNat) }

/-- The destination pair gets the immediate word, or the word at nn (low byte first) with MEMPTR nn + 1, or for SP the value of HL or XY; every other pair, the flags and memory are unchanged. -/
def Obligations.WordLoads : Prop :=
  ∀ (s : State) (rp : Rp) (xy : IndexReg) (nn : Word),
    let Loads := fun (i : Instr) (u : State) (rp : Rp) (v : Word) => ∃ t, exec i s = .next t ∧ t.rp rp = v ∧
      (∀ q, q ≠ rp → t.rp q = s.rp q) ∧
      { t with b := s.b, c := s.c, d := s.d, e := s.e, h := s.h, l := s.l, sp := s.sp } = u
    let LoadsXy := fun (i : Instr) (u : State) (v : Word) => ∃ t, exec i s = .next t ∧ t.index xy = v ∧
      (∀ q, q ≠ xy → t.index q = s.index q) ∧ { t with ix := s.ix, iy := s.iy } = u
    let fromMem := { loaded (loaded s nn) (nn + 1#16) with memptr := nn + 1#16 }
    Loads (.ldRpNn rp nn) s rp nn ∧ LoadsXy (.ldXyNn xy nn) s nn ∧
    Loads (.ldHlAtNn nn) fromMem .hl (wordAt s nn) ∧ Loads (.ldRpAtNn rp nn) fromMem rp (wordAt s nn) ∧
    LoadsXy (.ldXyAtNn xy nn) fromMem (wordAt s nn) ∧ Loads .ldSpHl s .sp s.hl ∧ Loads (.ldSpXy xy) s .sp (s.index xy)

/-- Stores put the low byte at nn and the high byte at nn + 1 with MEMPTR nn + 1; PUSH pushes the pair; POP gives the pair the word at SP, POP AF all eight bits of F, and only POP AF counts for Q and only under popAfSetsQ. Nothing else changes. -/
def Obligations.WordStoresPushAndPop : Prop :=
  ∀ (s : State) (rp : Rp) (xy : IndexReg) (nn : Word),
    let store := fun (v : Word) =>
      { stored (stored s nn (byteOf v.toNat)) (nn + 1#16) (byteOf (v.toNat / 256)) with memptr := nn + 1#16 }
    let high := byteOf ((wordAt s s.sp).toNat / 256)
    let low := byteOf (wordAt s s.sp).toNat
    exec (.ldAtNnHl nn) s = .next (store s.hl) ∧ exec (.ldAtNnRp rp nn) s = .next (store (s.rp rp)) ∧
    exec (.ldAtNnXy xy nn) s = .next (store (s.index xy)) ∧
    exec (.pushRp2 .bc) s = .next (pushed s s.bc) ∧ exec (.pushRp2 .de) s = .next (pushed s s.de) ∧
    exec (.pushRp2 .hl) s = .next (pushed s s.hl) ∧ exec (.pushRp2 .af) s = .next (pushed s s.af) ∧
    exec (.pushXy xy) s = .next (pushed s (s.index xy)) ∧
    exec (.popRp2 .bc) s = .next { popped s with b := high, c := low } ∧
    exec (.popRp2 .de) s = .next { popped s with d := high, e := low } ∧
    exec (.popRp2 .hl) s = .next { popped s with h := high, l := low } ∧
    exec (.popRp2 .af) s = .next { popped s with a := high, f := low, qCur := s.qCur || s.params.popAfSetsQ } ∧
    exec (.popXy .ix) s = .next { popped s with ix := wordAt s s.sp } ∧
    exec (.popXy .iy) s = .next { popped s with iy := wordAt s s.sp }

/-- Each exchange swaps exactly its two sides and completes; EX AF,AF' counts for Q only under popAfSetsQ; EX (SP) reads SP and SP + 1, then writes SP + 1 and SP, leaves SP, and MEMPTR is the word read. -/
def Obligations.Exchanges : Prop :=
  ∀ (s : State) (xy : IndexReg),
    let swapped := fun (hi lo : Byte) =>
      { stored (stored (loaded (loaded s s.sp) (s.sp + 1#16)) (s.sp + 1#16) hi) s.sp lo with memptr := wordAt s s.sp }
    exec .exAfAf s = .next
      { s with a := s.altA, f := s.altF, altA := s.a, altF := s.f, qCur := s.qCur || s.params.popAfSetsQ } ∧
    exec .exx s = .next { s with
      b := s.altB, c := s.altC, d := s.altD, e := s.altE, h := s.altH, l := s.altL
      altB := s.b, altC := s.c, altD := s.d, altE := s.e, altH := s.h, altL := s.l } ∧
    exec .exDeHl s = .next { s with d := s.h, e := s.l, h := s.d, l := s.e } ∧
    exec .exAtSpHl s = .next { swapped s.h s.l with
      h := byteOf ((wordAt s s.sp).toNat / 256), l := byteOf (wordAt s s.sp).toNat } ∧
    (∃ t, exec (.exAtSpXy xy) s = .next t ∧ t.index xy = wordAt s s.sp ∧ (∀ q, q ≠ xy → t.index q = s.index q) ∧
      { t with ix := s.ix, iy := s.iy } =
        swapped (byteOf ((s.index xy).toNat / 256)) (byteOf (s.index xy).toNat))

/-- Each single form completes with the moved byte, the pointers moved by one in its direction, the counter one lower, MEMPTR and every flag as its rule computes them in exact arithmetic, and Q set; nothing else changes. How INI and IND hold the draw of the port's byte (the host's queue, else a counted free value) is the model's choice (log entry 4, DESIGN CHOICE). -/
def Obligations.BlockInstructionsSingleForms : Prop :=
  ∀ s : State,
    exec .ldi s = .next (afterBlockLoad s false) ∧ exec .ldd s = .next (afterBlockLoad s true) ∧
    exec .cpi s = .next (afterBlockCompare s false) ∧ exec .cpd s = .next (afterBlockCompare s true) ∧
    exec .ini s = .next (afterBlockIn s false) ∧ exec .ind s = .next (afterBlockIn s true) ∧
    exec .outi s = .next (afterBlockOut s false) ∧ exec .outd s = .next (afterBlockOut s true)

/-- Each repeat form completes; it is its single form where the counter has reached zero (or, for CPIR and CPDR, the byte matched), and otherwise the single form followed by the repeat step: PC back by two, MEMPTR the new PC plus 1, Y and X from that PC only under blockRepeatXYFromPC. How INIR and INDR hold the draw of the port's byte (the host's queue, else a counted free value) is the model's choice (log entry 4, DESIGN CHOICE). -/
def Obligations.BlockInstructionsRepeatForms : Prop :=
  ∀ (s : State) (down : Bool),
    let load := if down then Instr.lddr else Instr.ldir
    let compare := if down then Instr.cpdr else Instr.cpir
    let input := if down then Instr.indr else Instr.inir
    let output := if down then Instr.otdr else Instr.otir
    (s.bc.toNat = 1 → exec load s = .next (afterBlockLoad s down)) ∧
    (s.bc.toNat ≠ 1 → exec load s = .next (repeated (afterBlockLoad s down))) ∧
    (s.bc.toNat = 1 ∨ s.a = s.peek s.hl → exec compare s = .next (afterBlockCompare s down)) ∧
    (s.bc.toNat ≠ 1 → s.a ≠ s.peek s.hl → exec compare s = .next (repeated (afterBlockCompare s down))) ∧
    (s.b.toNat = 1 → exec input s = .next (afterBlockIn s down)) ∧
    (s.b.toNat ≠ 1 → exec input s = .next (repeated (afterBlockIn s down))) ∧
    (s.b.toNat = 1 → exec output s = .next (afterBlockOut s down)) ∧
    (s.b.toNat ≠ 1 → exec output s = .next (repeated (afterBlockOut s down)))

/-- A becomes the sum with the carry (ADC) modulo 2^8; C is the sum above 255, H the nibble sum above 15, PV the signed sum out of range, S, Z, Y, X from the result, N 0; Q set; the (HL) and (XY+d) forms record their read and the latter leaves the address in MEMPTR. Nothing else changes. -/
def Obligations.AddAndAdcResults : Prop :=
  ∀ (s : State) (r : Reg8) (n d : Byte) (xy : IndexReg) (half : Half),
    exec (.addAR r) s = .next (afterAdd s (s.reg8 r) false) ∧
    exec (.addAN n) s = .next (afterAdd s n false) ∧
    exec .addAAtHl s = .next (afterAdd (readHl s) (s.peek s.hl) false) ∧
    exec (.addAAtXyD xy d) s = .next (afterAdd (readXy s xy d) (s.peek (addr s xy d)) false) ∧
    exec (.addAXyHalf xy half) s = .next (afterAdd s (halfByte s xy half) false) ∧
    exec (.adcAR r) s = .next (afterAdd s (s.reg8 r) (flagC s.f)) ∧
    exec (.adcAN n) s = .next (afterAdd s n (flagC s.f)) ∧
    exec .adcAAtHl s = .next (afterAdd (readHl s) (s.peek s.hl) (flagC s.f)) ∧
    exec (.adcAAtXyD xy d) s = .next (afterAdd (readXy s xy d) (s.peek (addr s xy d)) (flagC s.f)) ∧
    exec (.adcAXyHalf xy half) s = .next (afterAdd s (halfByte s xy half) (flagC s.f))

/-- SUB and SBC: A becomes the difference with the borrow (SBC) modulo 2^8; CP: A is not written. C is the borrow, H the nibble borrow, PV the signed difference out of range, S and Z from the difference, N 1; Y and X from the difference, for CP from the operand; Q set. Nothing else changes. -/
def Obligations.SubtractAndCompareResults : Prop :=
  ∀ (s : State) (r : Reg8) (n d : Byte) (xy : IndexReg) (half : Half),
    exec (.subR r) s = .next (afterSub s (s.reg8 r) false) ∧
    exec (.subN n) s = .next (afterSub s n false) ∧
    exec .subAtHl s = .next (afterSub (readHl s) (s.peek s.hl) false) ∧
    exec (.subAtXyD xy d) s = .next (afterSub (readXy s xy d) (s.peek (addr s xy d)) false) ∧
    exec (.subXyHalf xy half) s = .next (afterSub s (halfByte s xy half) false) ∧
    exec (.sbcAR r) s = .next (afterSub s (s.reg8 r) (flagC s.f)) ∧
    exec (.sbcAN n) s = .next (afterSub s n (flagC s.f)) ∧
    exec .sbcAAtHl s = .next (afterSub (readHl s) (s.peek s.hl) (flagC s.f)) ∧
    exec (.sbcAAtXyD xy d) s = .next (afterSub (readXy s xy d) (s.peek (addr s xy d)) (flagC s.f)) ∧
    exec (.sbcAXyHalf xy half) s = .next (afterSub s (halfByte s xy half) (flagC s.f)) ∧
    exec (.cpR r) s = .next (afterCp s (s.reg8 r)) ∧
    exec (.cpN n) s = .next (afterCp s n) ∧
    exec .cpAtHl s = .next (afterCp (readHl s) (s.peek s.hl)) ∧
    exec (.cpAtXyD xy d) s = .next (afterCp (readXy s xy d) (s.peek (addr s xy d))) ∧
    exec (.cpXyHalf xy half) s = .next (afterCp s (halfByte s xy half))

/-- A becomes the bitwise and, exclusive or, or or; S, Z, Y, X from it, PV its even parity, H 1 for AND and 0 for the others, N and C 0; Q set. Nothing else changes. -/
def Obligations.LogicResults : Prop :=
  ∀ (s : State) (r : Reg8) (n d : Byte) (xy : IndexReg) (half : Half),
    exec (.andR r) s = .next (afterLogic s (s.a &&& (s.reg8 r)) true) ∧
    exec (.andN n) s = .next (afterLogic s (s.a &&& n) true) ∧
    exec .andAtHl s = .next (afterLogic (readHl s) (s.a &&& (s.peek s.hl)) true) ∧
    exec (.andAtXyD xy d) s = .next (afterLogic (readXy s xy d) (s.a &&& (s.peek (addr s xy d))) true) ∧
    exec (.andXyHalf xy half) s = .next (afterLogic s (s.a &&& (halfByte s xy half)) true) ∧
    exec (.xorR r) s = .next (afterLogic s (s.a ^^^ (s.reg8 r)) false) ∧
    exec (.xorN n) s = .next (afterLogic s (s.a ^^^ n) false) ∧
    exec .xorAtHl s = .next (afterLogic (readHl s) (s.a ^^^ (s.peek s.hl)) false) ∧
    exec (.xorAtXyD xy d) s = .next (afterLogic (readXy s xy d) (s.a ^^^ (s.peek (addr s xy d))) false) ∧
    exec (.xorXyHalf xy half) s = .next (afterLogic s (s.a ^^^ (halfByte s xy half)) false) ∧
    exec (.orR r) s = .next (afterLogic s (s.a ||| (s.reg8 r)) false) ∧
    exec (.orN n) s = .next (afterLogic s (s.a ||| n) false) ∧
    exec .orAtHl s = .next (afterLogic (readHl s) (s.a ||| (s.peek s.hl)) false) ∧
    exec (.orAtXyD xy d) s = .next (afterLogic (readXy s xy d) (s.a ||| (s.peek (addr s xy d))) false) ∧
    exec (.orXyHalf xy half) s = .next (afterLogic s (s.a ||| (halfByte s xy half)) false)

/-- The operand is one higher or lower modulo 2^8, stored back where it came from; S, Z, Y, X from the result, H the nibble carry or borrow, PV the signed overflow, N 0 or 1, C kept; Q set. Nothing else changes: the other registers, the other half of XY and the other index register keep their values. -/
def Obligations.IncrementAndDecrement8 : Prop :=
  ∀ (s : State) (r : Reg8) (d : Byte) (xy : IndexReg) (half : Half),
    let Register := fun (i : Instr) (v f : Byte) => ∃ t, exec i s = .next t ∧ t.reg8 r = v ∧
      (∀ q, q ≠ r → t.reg8 q = s.reg8 q) ∧
      { t with a := s.a, b := s.b, c := s.c, d := s.d, e := s.e, h := s.h, l := s.l } = { s with f := f, qCur := true }
    let HalfReg := fun (i : Instr) (v f : Byte) => ∃ t, exec i s = .next t ∧ halfByte t xy half = v ∧
      (∀ q k, (q ≠ xy ∨ k ≠ half) → halfByte t q k = halfByte s q k) ∧
      { t with ix := s.ix, iy := s.iy } = { s with f := f, qCur := true }
    let up := fun (v : Byte) => byteOf (v.toNat + 1)
    let down := fun (v : Byte) => byteOf ((v.toNat : Int) - 1)
    let m := s.peek s.hl
    let x := s.peek (addr s xy d)
    Register (.incR r) (up (s.reg8 r)) (incFlags (s.reg8 r) s.f) ∧
    Register (.decR r) (down (s.reg8 r)) (decFlags (s.reg8 r) s.f) ∧
    exec .incAtHl s = .next { stored (readHl s) s.hl (up m) with f := incFlags m s.f, qCur := true } ∧
    exec .decAtHl s = .next { stored (readHl s) s.hl (down m) with f := decFlags m s.f, qCur := true } ∧
    exec (.incAtXyD xy d) s =
      .next { stored (readXy s xy d) (addr s xy d) (up x) with f := incFlags x s.f, qCur := true } ∧
    exec (.decAtXyD xy d) s =
      .next { stored (readXy s xy d) (addr s xy d) (down x) with f := decFlags x s.f, qCur := true } ∧
    HalfReg (.incXyHalf xy half) (up (halfByte s xy half)) (incFlags (halfByte s xy half) s.f) ∧
    HalfReg (.decXyHalf xy half) (down (halfByte s xy half)) (decFlags (halfByte s xy half) s.f)

/-- For all x and y below 100 and every state with A the BCD byte of x: exec of ADD A,n with the BCD byte of y, then of DAA, completes with A the BCD byte of (x + y) mod 100 and C set exactly where x + y is 100 or more; with SUB n, A is that of (x - y) mod 100 and C set exactly where x is below y. N is kept by DAA. -/
def Obligations.DecimalAdjustIsBcdCorrect : Prop :=
  ∀ (s : State) (x y : Nat), x < 100 → y < 100 →
    let bcd := fun (n : Nat) => BitVec.ofNat 8 (n / 10 * 16 + n % 10)
    s.a = bcd x →
    (∃ u t, exec (.addAN (bcd y)) s = .next u ∧ exec .daa u = .next t ∧ t.a = bcd ((x + y) % 100) ∧
      flagC t.f = decide (100 ≤ x + y) ∧ flagN t.f = false) ∧
    (∃ u t, exec (.subN (bcd y)) s = .next u ∧ exec .daa u = .next t ∧ t.a = bcd ((x + 100 - y) % 100) ∧
      flagC t.f = decide (x < y) ∧ flagN t.f = true)

/-- DAA completes in every state: the correction is 6 where H is set or the low digit is above 9, plus 0x60 where C is set or A is above 0x99; it is added, or subtracted where N is set, modulo 2^8; C becomes set with the 0x60 part and is never cleared, H is the low digit above 9 (N clear) or H with a low digit below 6 (N set), S, Z, Y, X and even parity from the new A, N kept; Q set, nothing else changes. -/
def Obligations.DecimalAdjustResult : Prop :=
  ∀ s : State,
    let low := s.a.toNat % 16
    let six := if flagH s.f = true ∨ 9 < low then 6 else 0
    let high := flagC s.f = true ∨ 0x99 < s.a.toNat
    let fix := six + if high then 0x60 else 0
    let r := byteOf (if flagN s.f = true then (s.a.toNat : Int) - fix else s.a.toNat + fix)
    exec .daa s = .next { s with
      a := r
      f := parityFlags r (if flagN s.f = true then flagH s.f && decide (low < 6) else decide (9 < low)) (flagN s.f) (decide high)
      qCur := true }

/-- CPL gives A 255 minus A with H and N set, Y and X from it, the rest kept. NEG, every duplicate, is 0 minus A with the flags of that subtraction. SCF sets C and clears H and N; CCF inverts C and puts the old C in H; in both Y and X are bits 5 and 3 of A where the instruction before modified flags (qLast), else of A or F. S, Z and PV are kept. Q set, nothing else changes. -/
def Obligations.ComplementNegateAndCarryFlags : Prop :=
  ∀ (s : State) (dup : BitVec 3),
    let mix := if s.qLast then s.a.toNat else (s.a ||| s.f).toNat
    exec .cpl s = .next { s with
      a := byteOf (255 - s.a.toNat)
      f := mkF (flagS s.f) (flagZ s.f) (!bitOf s.a.toNat 5) true (!bitOf s.a.toNat 3) (flagPV s.f) true (flagC s.f)
      qCur := true } ∧
    exec (.neg dup) s = .next (afterSub { s with a := 0#8 } s.a false) ∧
    exec .scf s = .next { s with
      f := mkF (flagS s.f) (flagZ s.f) (bitOf mix 5) false (bitOf mix 3) (flagPV s.f) false true, qCur := true } ∧
    exec .ccf s = .next { s with
      f := mkF (flagS s.f) (flagZ s.f) (bitOf mix 5) (flagC s.f) (bitOf mix 3) (flagPV s.f) false (!flagC s.f)
      qCur := true }

/-- NOP and every ED no-operation change nothing; HALT puts PC back on its byte and sets halted; DI clears and EI sets both latches, EI with the enable delay; IM n, every duplicate, sets the mode. Nothing else changes. -/
def Obligations.CpuControlResults : Prop :=
  ∀ (s : State) (op : Byte) (d2 : BitVec 2) (d1 : BitVec 1),
    exec .nop s = .next s ∧ exec (.nopEd op) s = .next s ∧
    exec .halt s = .next { s with pc := s.pc - 1#16, halted := true } ∧
    exec .di s = .next { s with iff1 := false, iff2 := false } ∧
    exec .ei s = .next { s with iff1 := true, iff2 := true, pendingEI := true } ∧
    exec (.im0 d2) s = .next { s with im := .im0 } ∧ exec (.im1 d1) s = .next { s with im := .im1 } ∧
    exec (.im2 d1) s = .next { s with im := .im2 }

/-- HL (or XY) becomes the 16-bit sum or difference; ADD keeps S, Z and PV, ADC and SBC write every flag, with C the carry or borrow, H that of bit 11, PV the signed overflow, Y and X from the high byte; MEMPTR is the old HL or XY plus 1; Q set. Nothing else changes. -/
def Obligations.WordArithmeticResults : Prop :=
  ∀ (s : State) (rp : Rp) (xy : IndexReg) (rpx : RpXy),
    let hl := fun (v : Word) (f : Byte) =>
      { s with h := byteOf (v.toNat / 256), l := byteOf v.toNat, memptr := s.hl + 1#16, f := f, qCur := true }
    let x := s.index xy
    let y := match rpx with
      | .bc => s.bc | .de => s.de | .xy => x | .sp => s.sp
    let c := flagC s.f
    exec (.addHlRp rp) s = .next (hl (wordOf (s.hl.toNat + (s.rp rp).toNat)) (add16Flags s.hl (s.rp rp) s.f)) ∧
    exec (.adcHlRp rp) s = .next (hl (wordOf (s.hl.toNat + (s.rp rp).toNat + c.toNat)) (adc16Flags s.hl (s.rp rp) c)) ∧
    exec (.sbcHlRp rp) s =
      .next (hl (wordOf ((s.hl.toNat : Int) - (s.rp rp).toNat - c.toNat)) (sbc16Flags s.hl (s.rp rp) c)) ∧
    (∃ t, exec (.addXyRp xy rpx) s = .next t ∧ t.index xy = wordOf (x.toNat + y.toNat) ∧
      (∀ q, q ≠ xy → t.index q = s.index q) ∧
      { t with ix := s.ix, iy := s.iy } = { s with memptr := x + 1#16, f := add16Flags x y s.f, qCur := true })

/-- The pair is one higher or lower modulo 2^16; every other pair, the flags and everything else are unchanged. -/
def Obligations.WordIncrementAndDecrement : Prop :=
  ∀ (s : State) (rp : Rp) (xy : IndexReg),
    let Pair := fun (i : Instr) (n : Int) => ∃ t, exec i s = .next t ∧ t.rp rp = wordOf n ∧ (∀ q, q ≠ rp → t.rp q = s.rp q) ∧
      { t with b := s.b, c := s.c, d := s.d, e := s.e, h := s.h, l := s.l, sp := s.sp } = s
    let Index := fun (i : Instr) (n : Int) => ∃ t, exec i s = .next t ∧ t.index xy = wordOf n ∧
      (∀ q, q ≠ xy → t.index q = s.index q) ∧ { t with ix := s.ix, iy := s.iy } = s
    Pair (.incRp rp) ((s.rp rp).toNat + 1) ∧ Pair (.decRp rp) ((s.rp rp).toNat - 1) ∧
    Index (.incXy xy) ((s.index xy).toNat + 1) ∧ Index (.decXy xy) ((s.index xy).toNat - 1)

/-- The accumulator rotates give A the rotated value, C the bit shifted out, H and N 0, Y and X from the new A, S, Z and PV kept. RLD and RRD rotate the nibbles of A (low) and (HL) left or right, with S, Z, Y, X and even parity from the new A, H and N 0, C kept, and MEMPTR HL + 1. Q set, nothing else changes. -/
def Obligations.AccumulatorRotates : Prop :=
  ∀ s : State,
    let rot := fun (op : RotOp) =>
      let r := rotByte op s.a s.f
      { s with a := r, f := rotAFlags r s.f (rotated op s.a.toNat (flagC s.f)).2, qCur := true }
    let t := (s.peek s.hl).toNat
    let a := s.a.toNat
    let nibbles := fun (newA newM : Nat) =>
      { stored (readHl s) s.hl (byteOf newM) with
        a := byteOf newA, memptr := s.hl + 1#16, f := parityFlags (byteOf newA) false false (flagC s.f), qCur := true }
    exec .rlca s = .next (rot .rlc) ∧ exec .rrca s = .next (rot .rrc) ∧ exec .rla s = .next (rot .rl) ∧
    exec .rra s = .next (rot .rr) ∧
    exec .rld s = .next (nibbles (a / 16 * 16 + t / 16) (t % 16 * 16 + a % 16)) ∧
    exec .rrd s = .next (nibbles (a / 16 * 16 + t % 16) (a % 16 * 16 + t / 16))

/-- RLC, RRC, RL, RR, SLA, SRA, SLL and SRL write the rotated or shifted value back to the register, or to the byte at HL, and every flag: C the bit shifted out, S, Z, Y, X and even parity from the result, H and N 0. Q set, nothing else changes. -/
def Obligations.RotatesOfRegistersAndHl : Prop :=
  ∀ (s : State) (r : Reg8),
    let Register := fun (i : Instr) (op : RotOp) => ∃ t, exec i s = .next t ∧ t.reg8 r = rotByte op (s.reg8 r) s.f ∧
      (∀ q, q ≠ r → t.reg8 q = s.reg8 q) ∧
      { t with a := s.a, b := s.b, c := s.c, d := s.d, e := s.e, h := s.h, l := s.l } =
        { s with f := rotFlags op (s.reg8 r) s.f, qCur := true }
    let Memory := fun (i : Instr) (op : RotOp) =>
      let v := s.peek s.hl
      exec i s = .next { stored (readHl s) s.hl (rotByte op v s.f) with f := rotFlags op v s.f, qCur := true }
    Register (.rlcR r) .rlc ∧ Memory .rlcAtHl .rlc ∧
    Register (.rrcR r) .rrc ∧ Memory .rrcAtHl .rrc ∧
    Register (.rlR r) .rl ∧ Memory .rlAtHl .rl ∧
    Register (.rrR r) .rr ∧ Memory .rrAtHl .rr ∧
    Register (.slaR r) .sla ∧ Memory .slaAtHl .sla ∧
    Register (.sraR r) .sra ∧ Memory .sraAtHl .sra ∧
    Register (.sllR r) .sll ∧ Memory .sllAtHl .sll ∧
    Register (.srlR r) .srl ∧ Memory .srlAtHl .srl

/-- The byte at XY + d is read, rotated or shifted and written back with the flags of the CB form, MEMPTR holding the address; the copy forms also put the result in the named register, H and L being the real ones, and leave XY and every other register unchanged. -/
def Obligations.RotatesOfIndexedMemory : Prop :=
  ∀ (s : State) (r : Reg8) (xy : IndexReg) (d : Byte),
    let v := s.peek (addr s xy d)
    let after := fun (op : RotOp) =>
      { stored (readXy s xy d) (addr s xy d) (rotByte op v s.f) with f := rotFlags op v s.f, qCur := true }
    let Copies := fun (i : Instr) (op : RotOp) => ∃ t, exec i s = .next t ∧ t.reg8 r = rotByte op v s.f ∧
      (∀ q, q ≠ r → t.reg8 q = s.reg8 q) ∧
      { t with a := s.a, b := s.b, c := s.c, d := s.d, e := s.e, h := s.h, l := s.l } = after op
    exec (.rlcAtXyD xy d) s = .next (after .rlc) ∧ Copies (.rlcAtXyDR xy d r) .rlc ∧
    exec (.rrcAtXyD xy d) s = .next (after .rrc) ∧ Copies (.rrcAtXyDR xy d r) .rrc ∧
    exec (.rlAtXyD xy d) s = .next (after .rl) ∧ Copies (.rlAtXyDR xy d r) .rl ∧
    exec (.rrAtXyD xy d) s = .next (after .rr) ∧ Copies (.rrAtXyDR xy d r) .rr ∧
    exec (.slaAtXyD xy d) s = .next (after .sla) ∧ Copies (.slaAtXyDR xy d r) .sla ∧
    exec (.sraAtXyD xy d) s = .next (after .sra) ∧ Copies (.sraAtXyDR xy d r) .sra ∧
    exec (.sllAtXyD xy d) s = .next (after .sll) ∧ Copies (.sllAtXyDR xy d r) .sll ∧
    exec (.srlAtXyD xy d) s = .next (after .srl) ∧ Copies (.srlAtXyDR xy d r) .srl

/-- Z and PV are the complement of the tested bit, S is set only for bit 7 set, H 1, N 0, C kept; Y and X are bits 5 and 3 of the register, of the high byte of MEMPTR for (HL), of the high byte of the address for (XY+d) (every final byte of it); no register or memory byte is written; Q set. -/
def Obligations.BitTestResults : Prop :=
  ∀ (s : State) (b dup : BitVec 3) (r : Reg8) (xy : IndexReg) (d : Byte),
    let flags := fun (v : Byte) (yx : Nat) =>
      let bit := bitOf v.toNat b.toNat
      mkF (decide (b.toNat = 7) && bit) (!bit) (bitOf yx 5) true (bitOf yx 3) (!bit) false (flagC s.f)
    exec (.bitR b r) s = .next { s with f := flags (s.reg8 r) (s.reg8 r).toNat, qCur := true } ∧
    exec (.bitAtHl b) s = .next { readHl s with f := flags (s.peek s.hl) (s.memptr.toNat / 256), qCur := true } ∧
    exec (.bitAtXyD xy d b dup) s = .next
      { readXy s xy d with f := flags (s.peek (addr s xy d)) ((addr s xy d).toNat / 256), qCur := true }

/-- Exactly the named bit of the register or memory byte becomes 0 or 1; the byte is written back even where it does not change; the copy forms also put it in the real register; no flag, no other register and no other byte changes; MEMPTR is the address for (XY+d) only. -/
def Obligations.BitResetAndSetResults : Prop :=
  ∀ (s : State) (b : BitVec 3) (r : Reg8) (xy : IndexReg) (d : Byte),
    let x := s.peek (addr s xy d)
    let Register := fun (i : Instr) (v : Byte) (u : State) => ∃ t, exec i s = .next t ∧ t.reg8 r = v ∧
      (∀ q, q ≠ r → t.reg8 q = s.reg8 q) ∧
      { t with a := s.a, b := s.b, c := s.c, d := s.d, e := s.e, h := s.h, l := s.l } = u
    let indexed := fun (on : Bool) => stored (readXy s xy d) (addr s xy d) (putBit x b on)
    Register (.resR b r) (putBit (s.reg8 r) b false) s ∧ Register (.setR b r) (putBit (s.reg8 r) b true) s ∧
    exec (.resAtHl b) s = .next (stored (readHl s) s.hl (putBit (s.peek s.hl) b false)) ∧
    exec (.setAtHl b) s = .next (stored (readHl s) s.hl (putBit (s.peek s.hl) b true)) ∧
    exec (.resAtXyD xy d b) s = .next (indexed false) ∧ exec (.setAtXyD xy d b) s = .next (indexed true) ∧
    Register (.resAtXyDR xy d b r) (putBit x b false) (indexed false) ∧
    Register (.setAtXyDR xy d b r) (putBit x b true) (indexed true)

/-- JP nn and a taken JP cc go to nn, and MEMPTR is nn taken or not; JR, a taken JR cc and a DJNZ whose B is not 1 go to PC plus the signed offset modulo 2^16 with MEMPTR the target; not taken, PC stays past the instruction and MEMPTR is kept; JP (HL) and JP (XY) go to the register and keep MEMPTR; DJNZ takes 1 from B and no flag changes anywhere. -/
def Obligations.JumpResults : Prop :=
  ∀ (s : State) (cc : Cond) (nn : Word) (e : Byte) (xy : IndexReg),
    let rel := relTarget s e
    exec (.jpNn nn) s = .next { s with pc := nn, memptr := nn } ∧
    exec (.jpCcNn cc nn) s = .next { s with pc := if holds cc s.f then nn else s.pc, memptr := nn } ∧
    exec (.jr e) s = .next { s with pc := rel, memptr := rel } ∧
    (holds cc s.f = true → exec (.jrCc cc e) s = .next { s with pc := rel, memptr := rel }) ∧
    (holds cc s.f = false → exec (.jrCc cc e) s = .next s) ∧
    exec .jpHl s = .next { s with pc := s.hl } ∧ exec (.jpXy xy) s = .next { s with pc := s.index xy } ∧
    (s.b.toNat = 1 → exec (.djnz e) s = .next { s with b := 0#8 }) ∧
    (s.b.toNat ≠ 1 → exec (.djnz e) s = .next { s with b := byteOf ((s.b.toNat : Int) - 1), pc := rel, memptr := rel })

/-- CALL nn and a taken CALL cc push PC (past the instruction) and go to nn, MEMPTR nn taken or not, and push nothing when not taken; RET and a taken RET cc pop PC, MEMPTR the popped address, and read nothing when not taken; RST pushes PC and goes to eight times its field with MEMPTR the target. No flag changes and nothing else. -/
def Obligations.CallAndReturnResults : Prop :=
  ∀ (s : State) (cc : Cond) (nn : Word) (p : BitVec 3),
    let popsPc := { popped s with pc := wordAt s s.sp, memptr := wordAt s s.sp }
    exec (.callNn nn) s = .next { pushed s s.pc with pc := nn, memptr := nn } ∧
    (holds cc s.f = true → exec (.callCcNn cc nn) s = .next { pushed s s.pc with pc := nn, memptr := nn }) ∧
    (holds cc s.f = false → exec (.callCcNn cc nn) s = .next { s with memptr := nn }) ∧
    exec .ret s = .next popsPc ∧ (holds cc s.f = true → exec (.retCc cc) s = .next popsPc) ∧
    (holds cc s.f = false → exec (.retCc cc) s = .next s) ∧
    exec (.rst p) s = .next { pushed s s.pc with pc := wordOf (8 * p.toNat), memptr := wordOf (8 * p.toNat) }

/-- Input takes the environment's byte (the host's next supplied byte, else a free draw, of which nothing is known): IN A,(n) from port A:n into A with MEMPTR the port plus 1 and no flag; IN r,(C) from port BC into the register, IN (C) into none, both with S, Z, Y, X and even parity from the byte, H and N 0, C kept, MEMPTR BC + 1, Q set. Output writes A to port A:n with MEMPTR A:(n + 1) without carry, or a register or outC0Value to port BC with MEMPTR BC + 1, and no flag. Nothing else changes. How a draw is held is the model's choice (log entry 4). -/
def Obligations.InputAndOutputResults : Prop :=
  ∀ (s : State) (r : Reg8) (n : Byte),
    let port := wordOf (s.a.toNat * 256 + n.toNat)
    let v := inputByte s s.bc
    let flagged := { afterInput s s.bc with memptr := s.bc + 1#16, f := parityFlags v false false (flagC s.f), qCur := true }
    exec (.inAAtN n) s = .next { afterInput s port with a := inputByte s port, memptr := port + 1#16 } ∧
    (∃ t, exec (.inRC r) s = .next t ∧ t.reg8 r = v ∧ (∀ q, q ≠ r → t.reg8 q = s.reg8 q) ∧
      { t with a := s.a, b := s.b, c := s.c, d := s.d, e := s.e, h := s.h, l := s.l } = flagged) ∧
    exec .inC s = .next flagged ∧
    exec (.outAtNA n) s =
      .next { afterOutput s port s.a with memptr := wordOf (s.a.toNat * 256 + (n.toNat + 1) % 256) } ∧
    exec (.outCR r) s = .next { afterOutput s s.bc (s.reg8 r) with memptr := s.bc + 1#16 } ∧
    exec .outC0 s = .next { afterOutput s s.bc s.params.outC0Value with memptr := s.bc + 1#16 }
end

