-- ==== Sys2Proof/Laws/Memory.lean ====
section
/-! SUPPORT. Laws of memory: every operation keeps the canonical form, and a byte read is the byte last written. -/

namespace Sys2Proof.Machine

theorem Memory.wfFrom_mono {lo lo' : Nat} (m : Memory) (h : lo' ≤ lo) (hw : m.wfFrom lo = true) : m.wfFrom lo' = true := by
  cases m with
  | nil => rfl
  | cons c rest =>
    simp only [wfFrom, Bool.and_eq_true, decide_eq_true_eq] at hw ⊢
    exact ⟨⟨⟨by omega, hw.1.1.2⟩, hw.1.2⟩, hw.2⟩

/-- An address below every listed one reads as unwritten. -/
theorem Memory.readCell_below (m : Memory) (n lo : Nat) (hw : m.wfFrom lo = true) (h : n < lo) :
    m.readCell n = Config.unwrittenByte := by
  induction m generalizing lo with
  | nil => rfl
  | cons c rest ih =>
    simp only [wfFrom, Bool.and_eq_true, decide_eq_true_eq] at hw
    have : c.1 ≠ n := by omega
    simp only [readCell, this, if_false]
    exact ih (c.1 + 1) hw.2 (by omega)

theorem Memory.wfFrom_writeCell (m : Memory) (n lo : Nat) (v : Byte) (hw : m.wfFrom lo = true) (hlo : lo ≤ n)
    (hn : n < 0x10000) : (m.writeCell n v).wfFrom lo = true := by
  induction m generalizing lo with
  | nil => by_cases hv : v = Config.unwrittenByte <;> simp [writeCell, wfFrom, hv, hlo, hn]
  | cons c rest ih =>
    obtain ⟨k, w⟩ := c
    simp only [wfFrom, Bool.and_eq_true, decide_eq_true_eq] at hw
    obtain ⟨⟨⟨h1, h2⟩, h3⟩, h4⟩ := hw
    unfold writeCell
    split
    · next hlt =>
      split
      · simp [wfFrom, h1, h2, h4]; simpa using h3
      · next hv =>
        simp only [wfFrom, Bool.and_eq_true, decide_eq_true_eq, bne_iff_ne, ne_eq]
        exact ⟨⟨⟨hlo, hn⟩, hv⟩, ⟨⟨by omega, h2⟩, by simpa using h3⟩, h4⟩
    · split
      · next hge he =>
        subst he
        split
        · exact wfFrom_mono rest (by omega) h4
        · next hv => simp only [wfFrom, Bool.and_eq_true, decide_eq_true_eq, bne_iff_ne, ne_eq]; exact ⟨⟨⟨hlo, hn⟩, hv⟩, h4⟩
      · next hge hne =>
        simp only [wfFrom, Bool.and_eq_true, decide_eq_true_eq]
        exact ⟨⟨⟨h1, h2⟩, h3⟩, ih (k + 1) h4 (by omega)⟩

theorem Memory.readCell_writeCell (m : Memory) (n k lo : Nat) (v : Byte) (hw : m.wfFrom lo = true) :
    (m.writeCell n v).readCell k = if k = n then v else m.readCell k := by
  induction m generalizing lo with
  | nil =>
    by_cases hk : k = n
    · by_cases hv : v = Config.unwrittenByte <;> simp [writeCell, readCell, hv, hk]
    · by_cases hv : v = Config.unwrittenByte <;> simp [writeCell, readCell, hv, hk, Ne.symm hk]
  | cons c rest ih =>
    obtain ⟨j, w⟩ := c
    simp only [wfFrom, Bool.and_eq_true, decide_eq_true_eq] at hw
    obtain ⟨⟨⟨h1, h2⟩, h3⟩, h4⟩ := hw
    unfold writeCell
    split
    · next hlt =>
      split
      · next hv =>
        by_cases hk : k = n
        · have hj : j ≠ k := by omega
          simp only [readCell, hj, if_false, if_pos hk, hv]
          exact readCell_below rest k (j + 1) h4 (by omega)
        · simp [hk]
      · by_cases hk : k = n
        · simp [readCell, hk]
        · simp [readCell, hk, Ne.symm hk]
    · split
      · next hge he =>
        subst he
        split
        · next hv =>
          by_cases hk : k = n
          · subst hk; simp only [if_true, hv]; exact readCell_below rest k (k + 1) h4 (by omega)
          · simp [readCell, hk, Ne.symm hk]
        · by_cases hk : k = n
          · simp [readCell, hk]
          · simp [readCell, hk, Ne.symm hk]
      · next hge hne =>
        by_cases hj : j = k
        · subst hj
          have : ¬ j = n := fun h => hne h.symm
          simp [readCell, this]
        · simp only [readCell, hj, if_false]; exact ih (j + 1) h4

/-- A write keeps the canonical form. -/
theorem Memory.wf_write (m : Memory) (a : Word) (v : Byte) (hw : m.wf = true) : (m.write a v).wf = true :=
  wfFrom_writeCell m a.toNat 0 v hw (Nat.zero_le _) a.isLt

/-- What a read after a write answers. -/
theorem Memory.read_write (m : Memory) (a b : Word) (v : Byte) (hw : m.wf = true) :
    (m.write a v).read b = if b = a then v else m.read b := by
  have h := readCell_writeCell m a.toNat b.toNat 0 v hw
  simpa only [read, write, BitVec.toNat_inj] using h

/-- A write leaves every other address, with no condition on the memory. -/
theorem Memory.read_write_of_ne (m : Memory) (a b : Word) (v : Byte) (h : b ≠ a) :
    (m.write a v).read b = m.read b := by
  have hn : b.toNat ≠ a.toNat := fun e => h (BitVec.toNat_inj.mp e)
  simp only [read, write]
  induction m with
  | nil => by_cases hv : v = Config.unwrittenByte <;> simp [writeCell, readCell, hv, hn.symm]
  | cons c rest ih =>
    obtain ⟨j, w⟩ := c
    unfold writeCell
    split
    · split <;> simp [readCell, hn.symm]
    · split
      · next he => subst he; split <;> simp [readCell, hn.symm]
      · simp only [readCell]; split <;> simp_all

/-- Placing bytes keeps the canonical form. -/
theorem Memory.wf_store (m : Memory) (a : Word) (bytes : List Byte) (hw : m.wf = true) : (m.store a bytes).wf = true := by
  induction bytes generalizing m a with
  | nil => exact hw
  | cons v rest ih => exact ih (m.write a v) (a + 1#16) (m.wf_write a v hw)

@[simp] theorem State.reset_mem_wf : State.reset.mem.wf = true := rfl

end Sys2Proof.Machine
end

