-- ==== Sys2Proof/Laws/Word.lean ====
section
/-! SUPPORT. Laws of the byte and word helpers and of the layout of F. -/

namespace Sys2Proof

theorem toNat_hi8 (v : Word) : (hi8 v).toNat = v.toNat / 256 := by
  have := v.isLt
  simp [hi8, BitVec.extractLsb'_toNat, Nat.shiftRight_eq_div_pow]; omega

theorem toNat_lo8 (v : Word) : (lo8 v).toNat = v.toNat % 256 := by
  simp [lo8, BitVec.extractLsb'_toNat]

theorem toNat_pair (h l : Byte) : (pair h l).toNat = h.toNat * 256 + l.toNat := by
  have := l.isLt
  rw [show (pair h l).toNat = h.toNat <<< 8 ||| l.toNat from BitVec.toNat_append h l,
    ← Nat.shiftLeft_add_eq_or_of_lt (by omega), Nat.shiftLeft_eq]

@[simp] theorem hi8_pair (h l : Byte) : hi8 (pair h l) = h := by
  apply BitVec.eq_of_toNat_eq
  have := l.isLt
  rw [toNat_hi8, toNat_pair]; omega

@[simp] theorem lo8_pair (h l : Byte) : lo8 (pair h l) = l := by
  apply BitVec.eq_of_toNat_eq
  have := l.isLt
  rw [toNat_lo8, toNat_pair]; omega

@[simp] theorem pair_hi8_lo8 (v : Word) : pair (hi8 v) (lo8 v) = v := by
  apply BitVec.eq_of_toNat_eq
  rw [toNat_pair, toNat_hi8, toNat_lo8]; omega

/-- Equal bytes of two words make equal words. -/
theorem eq_of_hi8_lo8 (v w : Word) (h : hi8 v = hi8 w) (l : lo8 v = lo8 w) : v = w := by
  rw [← pair_hi8_lo8 v, ← pair_hi8_lo8 w, h, l]

theorem pair_inj (h l h' l' : Byte) : pair h l = pair h' l' ↔ h = h' ∧ l = l' := by
  constructor
  · intro e
    have a := congrArg hi8 e
    have b := congrArg lo8 e
    simpa using And.intro a b
  · rintro ⟨rfl, rfl⟩; rfl

/-- A bit as a quotient of the number. -/
theorem getLsbD_eq_div {w : Nat} (v : BitVec w) (k : Nat) : v.getLsbD k = decide (v.toNat / 2 ^ k % 2 = 1) := by
  simp [BitVec.getLsbD, Nat.testBit_eq_decide_div_mod_eq]

namespace Machine

@[simp] theorem flagS_mkF (s z y h x p n c : Bool) : flagS (mkF s z y h x p n c) = s := by cases s <;> cases z <;> cases y <;> cases h <;> cases x <;> cases p <;> cases n <;> cases c <;> rfl
@[simp] theorem flagZ_mkF (s z y h x p n c : Bool) : flagZ (mkF s z y h x p n c) = z := by cases s <;> cases z <;> cases y <;> cases h <;> cases x <;> cases p <;> cases n <;> cases c <;> rfl
@[simp] theorem flagY_mkF (s z y h x p n c : Bool) : flagY (mkF s z y h x p n c) = y := by cases s <;> cases z <;> cases y <;> cases h <;> cases x <;> cases p <;> cases n <;> cases c <;> rfl
@[simp] theorem flagH_mkF (s z y h x p n c : Bool) : flagH (mkF s z y h x p n c) = h := by cases s <;> cases z <;> cases y <;> cases h <;> cases x <;> cases p <;> cases n <;> cases c <;> rfl
@[simp] theorem flagX_mkF (s z y h x p n c : Bool) : flagX (mkF s z y h x p n c) = x := by cases s <;> cases z <;> cases y <;> cases h <;> cases x <;> cases p <;> cases n <;> cases c <;> rfl
@[simp] theorem flagPV_mkF (s z y h x p n c : Bool) : flagPV (mkF s z y h x p n c) = p := by cases s <;> cases z <;> cases y <;> cases h <;> cases x <;> cases p <;> cases n <;> cases c <;> rfl
@[simp] theorem flagN_mkF (s z y h x p n c : Bool) : flagN (mkF s z y h x p n c) = n := by cases s <;> cases z <;> cases y <;> cases h <;> cases x <;> cases p <;> cases n <;> cases c <;> rfl
@[simp] theorem flagC_mkF (s z y h x p n c : Bool) : flagC (mkF s z y h x p n c) = c := by cases s <;> cases z <;> cases y <;> cases h <;> cases x <;> cases p <;> cases n <;> cases c <;> rfl

/-- F is the byte of its eight flags. -/
theorem mkF_flags (f : Byte) :
    mkF (flagS f) (flagZ f) (flagY f) (flagH f) (flagX f) (flagPV f) (flagN f) (flagC f) = f := by
  have h : ∀ f : Byte, mkF (flagS f) (flagZ f) (flagY f) (flagH f) (flagX f) (flagPV f) (flagN f) (flagC f) = f := by decide
  exact h f

theorem toNat_carryIn (c : Bool) : (carryIn c).toNat = c.toNat := by cases c <;> rfl

end Machine
end Sys2Proof
end

