-- ==== Sys2Proof/Laws/State.lean ====
section
/-! SUPPORT. One lemma per field per update of State, each true by `rfl`, so that no proof unfolds a record update; then the
frames of the updates that choose a register. -/

namespace Sys2Proof.Machine

/-! ### emit -/

@[simp] theorem State.emit_a (s : State) (e : Event) : (s.emit e).a = s.a := rfl
@[simp] theorem State.emit_f (s : State) (e : Event) : (s.emit e).f = s.f := rfl
@[simp] theorem State.emit_b (s : State) (e : Event) : (s.emit e).b = s.b := rfl
@[simp] theorem State.emit_c (s : State) (e : Event) : (s.emit e).c = s.c := rfl
@[simp] theorem State.emit_d (s : State) (e : Event) : (s.emit e).d = s.d := rfl
@[simp] theorem State.emit_e (s : State) (e : Event) : (s.emit e).e = s.e := rfl
@[simp] theorem State.emit_h (s : State) (e : Event) : (s.emit e).h = s.h := rfl
@[simp] theorem State.emit_l (s : State) (e : Event) : (s.emit e).l = s.l := rfl
@[simp] theorem State.emit_altA (s : State) (e : Event) : (s.emit e).altA = s.altA := rfl
@[simp] theorem State.emit_altF (s : State) (e : Event) : (s.emit e).altF = s.altF := rfl
@[simp] theorem State.emit_altB (s : State) (e : Event) : (s.emit e).altB = s.altB := rfl
@[simp] theorem State.emit_altC (s : State) (e : Event) : (s.emit e).altC = s.altC := rfl
@[simp] theorem State.emit_altD (s : State) (e : Event) : (s.emit e).altD = s.altD := rfl
@[simp] theorem State.emit_altE (s : State) (e : Event) : (s.emit e).altE = s.altE := rfl
@[simp] theorem State.emit_altH (s : State) (e : Event) : (s.emit e).altH = s.altH := rfl
@[simp] theorem State.emit_altL (s : State) (e : Event) : (s.emit e).altL = s.altL := rfl
@[simp] theorem State.emit_ix (s : State) (e : Event) : (s.emit e).ix = s.ix := rfl
@[simp] theorem State.emit_iy (s : State) (e : Event) : (s.emit e).iy = s.iy := rfl
@[simp] theorem State.emit_sp (s : State) (e : Event) : (s.emit e).sp = s.sp := rfl
@[simp] theorem State.emit_pc (s : State) (e : Event) : (s.emit e).pc = s.pc := rfl
@[simp] theorem State.emit_i (s : State) (e : Event) : (s.emit e).i = s.i := rfl
@[simp] theorem State.emit_r7 (s : State) (e : Event) : (s.emit e).r7 = s.r7 := rfl
@[simp] theorem State.emit_rhi (s : State) (e : Event) : (s.emit e).rhi = s.rhi := rfl
@[simp] theorem State.emit_memptr (s : State) (e : Event) : (s.emit e).memptr = s.memptr := rfl
@[simp] theorem State.emit_qLast (s : State) (e : Event) : (s.emit e).qLast = s.qLast := rfl
@[simp] theorem State.emit_iff1 (s : State) (e : Event) : (s.emit e).iff1 = s.iff1 := rfl
@[simp] theorem State.emit_iff2 (s : State) (e : Event) : (s.emit e).iff2 = s.iff2 := rfl
@[simp] theorem State.emit_im (s : State) (e : Event) : (s.emit e).im = s.im := rfl
@[simp] theorem State.emit_halted (s : State) (e : Event) : (s.emit e).halted = s.halted := rfl
@[simp] theorem State.emit_pendingEI (s : State) (e : Event) : (s.emit e).pendingEI = s.pendingEI := rfl
@[simp] theorem State.emit_intLine (s : State) (e : Event) : (s.emit e).intLine = s.intLine := rfl
@[simp] theorem State.emit_nmiPending (s : State) (e : Event) : (s.emit e).nmiPending = s.nmiPending := rfl
@[simp] theorem State.emit_pfx (s : State) (e : Event) : (s.emit e).pfx = s.pfx := rfl
@[simp] theorem State.emit_pinResetReq (s : State) (e : Event) : (s.emit e).pinResetReq = s.pinResetReq := rfl
@[simp] theorem State.emit_bp (s : State) (e : Event) : (s.emit e).bp = s.bp := rfl
@[simp] theorem State.emit_traceEnabled (s : State) (e : Event) : (s.emit e).traceEnabled = s.traceEnabled := rfl
@[simp] theorem State.emit_mem (s : State) (e : Event) : (s.emit e).mem = s.mem := rfl
@[simp] theorem State.emit_bpHook (s : State) (e : Event) : (s.emit e).bpHook = s.bpHook := rfl
@[simp] theorem State.emit_history (s : State) (e : Event) : (s.emit e).history = e :: s.history := rfl
@[simp] theorem State.emit_portInputs (s : State) (e : Event) : (s.emit e).portInputs = s.portInputs := rfl
@[simp] theorem State.emit_ackInputs (s : State) (e : Event) : (s.emit e).ackInputs = s.ackInputs := rfl
@[simp] theorem State.emit_params (s : State) (e : Event) : (s.emit e).params = s.params := rfl
@[simp] theorem State.emit_portDraws (s : State) (e : Event) : (s.emit e).portDraws = s.portDraws := rfl
@[simp] theorem State.emit_ackDraws (s : State) (e : Event) : (s.emit e).ackDraws = s.ackDraws := rfl
@[simp] theorem State.emit_qCur (s : State) (e : Event) : (s.emit e).qCur = s.qCur := rfl

/-! ### setQ -/

@[simp] theorem State.setQ_a (s : State) : (s.setQ).a = s.a := rfl
@[simp] theorem State.setQ_f (s : State) : (s.setQ).f = s.f := rfl
@[simp] theorem State.setQ_b (s : State) : (s.setQ).b = s.b := rfl
@[simp] theorem State.setQ_c (s : State) : (s.setQ).c = s.c := rfl
@[simp] theorem State.setQ_d (s : State) : (s.setQ).d = s.d := rfl
@[simp] theorem State.setQ_e (s : State) : (s.setQ).e = s.e := rfl
@[simp] theorem State.setQ_h (s : State) : (s.setQ).h = s.h := rfl
@[simp] theorem State.setQ_l (s : State) : (s.setQ).l = s.l := rfl
@[simp] theorem State.setQ_altA (s : State) : (s.setQ).altA = s.altA := rfl
@[simp] theorem State.setQ_altF (s : State) : (s.setQ).altF = s.altF := rfl
@[simp] theorem State.setQ_altB (s : State) : (s.setQ).altB = s.altB := rfl
@[simp] theorem State.setQ_altC (s : State) : (s.setQ).altC = s.altC := rfl
@[simp] theorem State.setQ_altD (s : State) : (s.setQ).altD = s.altD := rfl
@[simp] theorem State.setQ_altE (s : State) : (s.setQ).altE = s.altE := rfl
@[simp] theorem State.setQ_altH (s : State) : (s.setQ).altH = s.altH := rfl
@[simp] theorem State.setQ_altL (s : State) : (s.setQ).altL = s.altL := rfl
@[simp] theorem State.setQ_ix (s : State) : (s.setQ).ix = s.ix := rfl
@[simp] theorem State.setQ_iy (s : State) : (s.setQ).iy = s.iy := rfl
@[simp] theorem State.setQ_sp (s : State) : (s.setQ).sp = s.sp := rfl
@[simp] theorem State.setQ_pc (s : State) : (s.setQ).pc = s.pc := rfl
@[simp] theorem State.setQ_i (s : State) : (s.setQ).i = s.i := rfl
@[simp] theorem State.setQ_r7 (s : State) : (s.setQ).r7 = s.r7 := rfl
@[simp] theorem State.setQ_rhi (s : State) : (s.setQ).rhi = s.rhi := rfl
@[simp] theorem State.setQ_memptr (s : State) : (s.setQ).memptr = s.memptr := rfl
@[simp] theorem State.setQ_qLast (s : State) : (s.setQ).qLast = s.qLast := rfl
@[simp] theorem State.setQ_iff1 (s : State) : (s.setQ).iff1 = s.iff1 := rfl
@[simp] theorem State.setQ_iff2 (s : State) : (s.setQ).iff2 = s.iff2 := rfl
@[simp] theorem State.setQ_im (s : State) : (s.setQ).im = s.im := rfl
@[simp] theorem State.setQ_halted (s : State) : (s.setQ).halted = s.halted := rfl
@[simp] theorem State.setQ_pendingEI (s : State) : (s.setQ).pendingEI = s.pendingEI := rfl
@[simp] theorem State.setQ_intLine (s : State) : (s.setQ).intLine = s.intLine := rfl
@[simp] theorem State.setQ_nmiPending (s : State) : (s.setQ).nmiPending = s.nmiPending := rfl
@[simp] theorem State.setQ_pfx (s : State) : (s.setQ).pfx = s.pfx := rfl
@[simp] theorem State.setQ_pinResetReq (s : State) : (s.setQ).pinResetReq = s.pinResetReq := rfl
@[simp] theorem State.setQ_bp (s : State) : (s.setQ).bp = s.bp := rfl
@[simp] theorem State.setQ_traceEnabled (s : State) : (s.setQ).traceEnabled = s.traceEnabled := rfl
@[simp] theorem State.setQ_mem (s : State) : (s.setQ).mem = s.mem := rfl
@[simp] theorem State.setQ_bpHook (s : State) : (s.setQ).bpHook = s.bpHook := rfl
@[simp] theorem State.setQ_history (s : State) : (s.setQ).history = s.history := rfl
@[simp] theorem State.setQ_portInputs (s : State) : (s.setQ).portInputs = s.portInputs := rfl
@[simp] theorem State.setQ_ackInputs (s : State) : (s.setQ).ackInputs = s.ackInputs := rfl
@[simp] theorem State.setQ_params (s : State) : (s.setQ).params = s.params := rfl
@[simp] theorem State.setQ_portDraws (s : State) : (s.setQ).portDraws = s.portDraws := rfl
@[simp] theorem State.setQ_ackDraws (s : State) : (s.setQ).ackDraws = s.ackDraws := rfl
@[simp] theorem State.setQ_qCur (s : State) : (s.setQ).qCur = true := rfl

/-! ### incR -/

@[simp] theorem State.incR_a (s : State) : (s.incR).a = s.a := rfl
@[simp] theorem State.incR_f (s : State) : (s.incR).f = s.f := rfl
@[simp] theorem State.incR_b (s : State) : (s.incR).b = s.b := rfl
@[simp] theorem State.incR_c (s : State) : (s.incR).c = s.c := rfl
@[simp] theorem State.incR_d (s : State) : (s.incR).d = s.d := rfl
@[simp] theorem State.incR_e (s : State) : (s.incR).e = s.e := rfl
@[simp] theorem State.incR_h (s : State) : (s.incR).h = s.h := rfl
@[simp] theorem State.incR_l (s : State) : (s.incR).l = s.l := rfl
@[simp] theorem State.incR_altA (s : State) : (s.incR).altA = s.altA := rfl
@[simp] theorem State.incR_altF (s : State) : (s.incR).altF = s.altF := rfl
@[simp] theorem State.incR_altB (s : State) : (s.incR).altB = s.altB := rfl
@[simp] theorem State.incR_altC (s : State) : (s.incR).altC = s.altC := rfl
@[simp] theorem State.incR_altD (s : State) : (s.incR).altD = s.altD := rfl
@[simp] theorem State.incR_altE (s : State) : (s.incR).altE = s.altE := rfl
@[simp] theorem State.incR_altH (s : State) : (s.incR).altH = s.altH := rfl
@[simp] theorem State.incR_altL (s : State) : (s.incR).altL = s.altL := rfl
@[simp] theorem State.incR_ix (s : State) : (s.incR).ix = s.ix := rfl
@[simp] theorem State.incR_iy (s : State) : (s.incR).iy = s.iy := rfl
@[simp] theorem State.incR_sp (s : State) : (s.incR).sp = s.sp := rfl
@[simp] theorem State.incR_pc (s : State) : (s.incR).pc = s.pc := rfl
@[simp] theorem State.incR_i (s : State) : (s.incR).i = s.i := rfl
@[simp] theorem State.incR_r7 (s : State) : (s.incR).r7 = s.r7 + 1#7 := rfl
@[simp] theorem State.incR_rhi (s : State) : (s.incR).rhi = s.rhi := rfl
@[simp] theorem State.incR_memptr (s : State) : (s.incR).memptr = s.memptr := rfl
@[simp] theorem State.incR_qLast (s : State) : (s.incR).qLast = s.qLast := rfl
@[simp] theorem State.incR_iff1 (s : State) : (s.incR).iff1 = s.iff1 := rfl
@[simp] theorem State.incR_iff2 (s : State) : (s.incR).iff2 = s.iff2 := rfl
@[simp] theorem State.incR_im (s : State) : (s.incR).im = s.im := rfl
@[simp] theorem State.incR_halted (s : State) : (s.incR).halted = s.halted := rfl
@[simp] theorem State.incR_pendingEI (s : State) : (s.incR).pendingEI = s.pendingEI := rfl
@[simp] theorem State.incR_intLine (s : State) : (s.incR).intLine = s.intLine := rfl
@[simp] theorem State.incR_nmiPending (s : State) : (s.incR).nmiPending = s.nmiPending := rfl
@[simp] theorem State.incR_pfx (s : State) : (s.incR).pfx = s.pfx := rfl
@[simp] theorem State.incR_pinResetReq (s : State) : (s.incR).pinResetReq = s.pinResetReq := rfl
@[simp] theorem State.incR_bp (s : State) : (s.incR).bp = s.bp := rfl
@[simp] theorem State.incR_traceEnabled (s : State) : (s.incR).traceEnabled = s.traceEnabled := rfl
@[simp] theorem State.incR_mem (s : State) : (s.incR).mem = s.mem := rfl
@[simp] theorem State.incR_bpHook (s : State) : (s.incR).bpHook = s.bpHook := rfl
@[simp] theorem State.incR_history (s : State) : (s.incR).history = s.history := rfl
@[simp] theorem State.incR_portInputs (s : State) : (s.incR).portInputs = s.portInputs := rfl
@[simp] theorem State.incR_ackInputs (s : State) : (s.incR).ackInputs = s.ackInputs := rfl
@[simp] theorem State.incR_params (s : State) : (s.incR).params = s.params := rfl
@[simp] theorem State.incR_portDraws (s : State) : (s.incR).portDraws = s.portDraws := rfl
@[simp] theorem State.incR_ackDraws (s : State) : (s.incR).ackDraws = s.ackDraws := rfl
@[simp] theorem State.incR_qCur (s : State) : (s.incR).qCur = s.qCur := rfl

/-! ### setAF -/

@[simp] theorem State.setAF_a (s : State) (v : Word) : (s.setAF v).a = hi8 v := rfl
@[simp] theorem State.setAF_f (s : State) (v : Word) : (s.setAF v).f = lo8 v := rfl
@[simp] theorem State.setAF_b (s : State) (v : Word) : (s.setAF v).b = s.b := rfl
@[simp] theorem State.setAF_c (s : State) (v : Word) : (s.setAF v).c = s.c := rfl
@[simp] theorem State.setAF_d (s : State) (v : Word) : (s.setAF v).d = s.d := rfl
@[simp] theorem State.setAF_e (s : State) (v : Word) : (s.setAF v).e = s.e := rfl
@[simp] theorem State.setAF_h (s : State) (v : Word) : (s.setAF v).h = s.h := rfl
@[simp] theorem State.setAF_l (s : State) (v : Word) : (s.setAF v).l = s.l := rfl
@[simp] theorem State.setAF_altA (s : State) (v : Word) : (s.setAF v).altA = s.altA := rfl
@[simp] theorem State.setAF_altF (s : State) (v : Word) : (s.setAF v).altF = s.altF := rfl
@[simp] theorem State.setAF_altB (s : State) (v : Word) : (s.setAF v).altB = s.altB := rfl
@[simp] theorem State.setAF_altC (s : State) (v : Word) : (s.setAF v).altC = s.altC := rfl
@[simp] theorem State.setAF_altD (s : State) (v : Word) : (s.setAF v).altD = s.altD := rfl
@[simp] theorem State.setAF_altE (s : State) (v : Word) : (s.setAF v).altE = s.altE := rfl
@[simp] theorem State.setAF_altH (s : State) (v : Word) : (s.setAF v).altH = s.altH := rfl
@[simp] theorem State.setAF_altL (s : State) (v : Word) : (s.setAF v).altL = s.altL := rfl
@[simp] theorem State.setAF_ix (s : State) (v : Word) : (s.setAF v).ix = s.ix := rfl
@[simp] theorem State.setAF_iy (s : State) (v : Word) : (s.setAF v).iy = s.iy := rfl
@[simp] theorem State.setAF_sp (s : State) (v : Word) : (s.setAF v).sp = s.sp := rfl
@[simp] theorem State.setAF_pc (s : State) (v : Word) : (s.setAF v).pc = s.pc := rfl
@[simp] theorem State.setAF_i (s : State) (v : Word) : (s.setAF v).i = s.i := rfl
@[simp] theorem State.setAF_r7 (s : State) (v : Word) : (s.setAF v).r7 = s.r7 := rfl
@[simp] theorem State.setAF_rhi (s : State) (v : Word) : (s.setAF v).rhi = s.rhi := rfl
@[simp] theorem State.setAF_memptr (s : State) (v : Word) : (s.setAF v).memptr = s.memptr := rfl
@[simp] theorem State.setAF_qLast (s : State) (v : Word) : (s.setAF v).qLast = s.qLast := rfl
@[simp] theorem State.setAF_iff1 (s : State) (v : Word) : (s.setAF v).iff1 = s.iff1 := rfl
@[simp] theorem State.setAF_iff2 (s : State) (v : Word) : (s.setAF v).iff2 = s.iff2 := rfl
@[simp] theorem State.setAF_im (s : State) (v : Word) : (s.setAF v).im = s.im := rfl
@[simp] theorem State.setAF_halted (s : State) (v : Word) : (s.setAF v).halted = s.halted := rfl
@[simp] theorem State.setAF_pendingEI (s : State) (v : Word) : (s.setAF v).pendingEI = s.pendingEI := rfl
@[simp] theorem State.setAF_intLine (s : State) (v : Word) : (s.setAF v).intLine = s.intLine := rfl
@[simp] theorem State.setAF_nmiPending (s : State) (v : Word) : (s.setAF v).nmiPending = s.nmiPending := rfl
@[simp] theorem State.setAF_pfx (s : State) (v : Word) : (s.setAF v).pfx = s.pfx := rfl
@[simp] theorem State.setAF_pinResetReq (s : State) (v : Word) : (s.setAF v).pinResetReq = s.pinResetReq := rfl
@[simp] theorem State.setAF_bp (s : State) (v : Word) : (s.setAF v).bp = s.bp := rfl
@[simp] theorem State.setAF_traceEnabled (s : State) (v : Word) : (s.setAF v).traceEnabled = s.traceEnabled := rfl
@[simp] theorem State.setAF_mem (s : State) (v : Word) : (s.setAF v).mem = s.mem := rfl
@[simp] theorem State.setAF_bpHook (s : State) (v : Word) : (s.setAF v).bpHook = s.bpHook := rfl
@[simp] theorem State.setAF_history (s : State) (v : Word) : (s.setAF v).history = s.history := rfl
@[simp] theorem State.setAF_portInputs (s : State) (v : Word) : (s.setAF v).portInputs = s.portInputs := rfl
@[simp] theorem State.setAF_ackInputs (s : State) (v : Word) : (s.setAF v).ackInputs = s.ackInputs := rfl
@[simp] theorem State.setAF_params (s : State) (v : Word) : (s.setAF v).params = s.params := rfl
@[simp] theorem State.setAF_portDraws (s : State) (v : Word) : (s.setAF v).portDraws = s.portDraws := rfl
@[simp] theorem State.setAF_ackDraws (s : State) (v : Word) : (s.setAF v).ackDraws = s.ackDraws := rfl
@[simp] theorem State.setAF_qCur (s : State) (v : Word) : (s.setAF v).qCur = s.qCur := rfl

/-! ### setBC -/

@[simp] theorem State.setBC_a (s : State) (v : Word) : (s.setBC v).a = s.a := rfl
@[simp] theorem State.setBC_f (s : State) (v : Word) : (s.setBC v).f = s.f := rfl
@[simp] theorem State.setBC_b (s : State) (v : Word) : (s.setBC v).b = hi8 v := rfl
@[simp] theorem State.setBC_c (s : State) (v : Word) : (s.setBC v).c = lo8 v := rfl
@[simp] theorem State.setBC_d (s : State) (v : Word) : (s.setBC v).d = s.d := rfl
@[simp] theorem State.setBC_e (s : State) (v : Word) : (s.setBC v).e = s.e := rfl
@[simp] theorem State.setBC_h (s : State) (v : Word) : (s.setBC v).h = s.h := rfl
@[simp] theorem State.setBC_l (s : State) (v : Word) : (s.setBC v).l = s.l := rfl
@[simp] theorem State.setBC_altA (s : State) (v : Word) : (s.setBC v).altA = s.altA := rfl
@[simp] theorem State.setBC_altF (s : State) (v : Word) : (s.setBC v).altF = s.altF := rfl
@[simp] theorem State.setBC_altB (s : State) (v : Word) : (s.setBC v).altB = s.altB := rfl
@[simp] theorem State.setBC_altC (s : State) (v : Word) : (s.setBC v).altC = s.altC := rfl
@[simp] theorem State.setBC_altD (s : State) (v : Word) : (s.setBC v).altD = s.altD := rfl
@[simp] theorem State.setBC_altE (s : State) (v : Word) : (s.setBC v).altE = s.altE := rfl
@[simp] theorem State.setBC_altH (s : State) (v : Word) : (s.setBC v).altH = s.altH := rfl
@[simp] theorem State.setBC_altL (s : State) (v : Word) : (s.setBC v).altL = s.altL := rfl
@[simp] theorem State.setBC_ix (s : State) (v : Word) : (s.setBC v).ix = s.ix := rfl
@[simp] theorem State.setBC_iy (s : State) (v : Word) : (s.setBC v).iy = s.iy := rfl
@[simp] theorem State.setBC_sp (s : State) (v : Word) : (s.setBC v).sp = s.sp := rfl
@[simp] theorem State.setBC_pc (s : State) (v : Word) : (s.setBC v).pc = s.pc := rfl
@[simp] theorem State.setBC_i (s : State) (v : Word) : (s.setBC v).i = s.i := rfl
@[simp] theorem State.setBC_r7 (s : State) (v : Word) : (s.setBC v).r7 = s.r7 := rfl
@[simp] theorem State.setBC_rhi (s : State) (v : Word) : (s.setBC v).rhi = s.rhi := rfl
@[simp] theorem State.setBC_memptr (s : State) (v : Word) : (s.setBC v).memptr = s.memptr := rfl
@[simp] theorem State.setBC_qLast (s : State) (v : Word) : (s.setBC v).qLast = s.qLast := rfl
@[simp] theorem State.setBC_iff1 (s : State) (v : Word) : (s.setBC v).iff1 = s.iff1 := rfl
@[simp] theorem State.setBC_iff2 (s : State) (v : Word) : (s.setBC v).iff2 = s.iff2 := rfl
@[simp] theorem State.setBC_im (s : State) (v : Word) : (s.setBC v).im = s.im := rfl
@[simp] theorem State.setBC_halted (s : State) (v : Word) : (s.setBC v).halted = s.halted := rfl
@[simp] theorem State.setBC_pendingEI (s : State) (v : Word) : (s.setBC v).pendingEI = s.pendingEI := rfl
@[simp] theorem State.setBC_intLine (s : State) (v : Word) : (s.setBC v).intLine = s.intLine := rfl
@[simp] theorem State.setBC_nmiPending (s : State) (v : Word) : (s.setBC v).nmiPending = s.nmiPending := rfl
@[simp] theorem State.setBC_pfx (s : State) (v : Word) : (s.setBC v).pfx = s.pfx := rfl
@[simp] theorem State.setBC_pinResetReq (s : State) (v : Word) : (s.setBC v).pinResetReq = s.pinResetReq := rfl
@[simp] theorem State.setBC_bp (s : State) (v : Word) : (s.setBC v).bp = s.bp := rfl
@[simp] theorem State.setBC_traceEnabled (s : State) (v : Word) : (s.setBC v).traceEnabled = s.traceEnabled := rfl
@[simp] theorem State.setBC_mem (s : State) (v : Word) : (s.setBC v).mem = s.mem := rfl
@[simp] theorem State.setBC_bpHook (s : State) (v : Word) : (s.setBC v).bpHook = s.bpHook := rfl
@[simp] theorem State.setBC_history (s : State) (v : Word) : (s.setBC v).history = s.history := rfl
@[simp] theorem State.setBC_portInputs (s : State) (v : Word) : (s.setBC v).portInputs = s.portInputs := rfl
@[simp] theorem State.setBC_ackInputs (s : State) (v : Word) : (s.setBC v).ackInputs = s.ackInputs := rfl
@[simp] theorem State.setBC_params (s : State) (v : Word) : (s.setBC v).params = s.params := rfl
@[simp] theorem State.setBC_portDraws (s : State) (v : Word) : (s.setBC v).portDraws = s.portDraws := rfl
@[simp] theorem State.setBC_ackDraws (s : State) (v : Word) : (s.setBC v).ackDraws = s.ackDraws := rfl
@[simp] theorem State.setBC_qCur (s : State) (v : Word) : (s.setBC v).qCur = s.qCur := rfl

/-! ### setDE -/

@[simp] theorem State.setDE_a (s : State) (v : Word) : (s.setDE v).a = s.a := rfl
@[simp] theorem State.setDE_f (s : State) (v : Word) : (s.setDE v).f = s.f := rfl
@[simp] theorem State.setDE_b (s : State) (v : Word) : (s.setDE v).b = s.b := rfl
@[simp] theorem State.setDE_c (s : State) (v : Word) : (s.setDE v).c = s.c := rfl
@[simp] theorem State.setDE_d (s : State) (v : Word) : (s.setDE v).d = hi8 v := rfl
@[simp] theorem State.setDE_e (s : State) (v : Word) : (s.setDE v).e = lo8 v := rfl
@[simp] theorem State.setDE_h (s : State) (v : Word) : (s.setDE v).h = s.h := rfl
@[simp] theorem State.setDE_l (s : State) (v : Word) : (s.setDE v).l = s.l := rfl
@[simp] theorem State.setDE_altA (s : State) (v : Word) : (s.setDE v).altA = s.altA := rfl
@[simp] theorem State.setDE_altF (s : State) (v : Word) : (s.setDE v).altF = s.altF := rfl
@[simp] theorem State.setDE_altB (s : State) (v : Word) : (s.setDE v).altB = s.altB := rfl
@[simp] theorem State.setDE_altC (s : State) (v : Word) : (s.setDE v).altC = s.altC := rfl
@[simp] theorem State.setDE_altD (s : State) (v : Word) : (s.setDE v).altD = s.altD := rfl
@[simp] theorem State.setDE_altE (s : State) (v : Word) : (s.setDE v).altE = s.altE := rfl
@[simp] theorem State.setDE_altH (s : State) (v : Word) : (s.setDE v).altH = s.altH := rfl
@[simp] theorem State.setDE_altL (s : State) (v : Word) : (s.setDE v).altL = s.altL := rfl
@[simp] theorem State.setDE_ix (s : State) (v : Word) : (s.setDE v).ix = s.ix := rfl
@[simp] theorem State.setDE_iy (s : State) (v : Word) : (s.setDE v).iy = s.iy := rfl
@[simp] theorem State.setDE_sp (s : State) (v : Word) : (s.setDE v).sp = s.sp := rfl
@[simp] theorem State.setDE_pc (s : State) (v : Word) : (s.setDE v).pc = s.pc := rfl
@[simp] theorem State.setDE_i (s : State) (v : Word) : (s.setDE v).i = s.i := rfl
@[simp] theorem State.setDE_r7 (s : State) (v : Word) : (s.setDE v).r7 = s.r7 := rfl
@[simp] theorem State.setDE_rhi (s : State) (v : Word) : (s.setDE v).rhi = s.rhi := rfl
@[simp] theorem State.setDE_memptr (s : State) (v : Word) : (s.setDE v).memptr = s.memptr := rfl
@[simp] theorem State.setDE_qLast (s : State) (v : Word) : (s.setDE v).qLast = s.qLast := rfl
@[simp] theorem State.setDE_iff1 (s : State) (v : Word) : (s.setDE v).iff1 = s.iff1 := rfl
@[simp] theorem State.setDE_iff2 (s : State) (v : Word) : (s.setDE v).iff2 = s.iff2 := rfl
@[simp] theorem State.setDE_im (s : State) (v : Word) : (s.setDE v).im = s.im := rfl
@[simp] theorem State.setDE_halted (s : State) (v : Word) : (s.setDE v).halted = s.halted := rfl
@[simp] theorem State.setDE_pendingEI (s : State) (v : Word) : (s.setDE v).pendingEI = s.pendingEI := rfl
@[simp] theorem State.setDE_intLine (s : State) (v : Word) : (s.setDE v).intLine = s.intLine := rfl
@[simp] theorem State.setDE_nmiPending (s : State) (v : Word) : (s.setDE v).nmiPending = s.nmiPending := rfl
@[simp] theorem State.setDE_pfx (s : State) (v : Word) : (s.setDE v).pfx = s.pfx := rfl
@[simp] theorem State.setDE_pinResetReq (s : State) (v : Word) : (s.setDE v).pinResetReq = s.pinResetReq := rfl
@[simp] theorem State.setDE_bp (s : State) (v : Word) : (s.setDE v).bp = s.bp := rfl
@[simp] theorem State.setDE_traceEnabled (s : State) (v : Word) : (s.setDE v).traceEnabled = s.traceEnabled := rfl
@[simp] theorem State.setDE_mem (s : State) (v : Word) : (s.setDE v).mem = s.mem := rfl
@[simp] theorem State.setDE_bpHook (s : State) (v : Word) : (s.setDE v).bpHook = s.bpHook := rfl
@[simp] theorem State.setDE_history (s : State) (v : Word) : (s.setDE v).history = s.history := rfl
@[simp] theorem State.setDE_portInputs (s : State) (v : Word) : (s.setDE v).portInputs = s.portInputs := rfl
@[simp] theorem State.setDE_ackInputs (s : State) (v : Word) : (s.setDE v).ackInputs = s.ackInputs := rfl
@[simp] theorem State.setDE_params (s : State) (v : Word) : (s.setDE v).params = s.params := rfl
@[simp] theorem State.setDE_portDraws (s : State) (v : Word) : (s.setDE v).portDraws = s.portDraws := rfl
@[simp] theorem State.setDE_ackDraws (s : State) (v : Word) : (s.setDE v).ackDraws = s.ackDraws := rfl
@[simp] theorem State.setDE_qCur (s : State) (v : Word) : (s.setDE v).qCur = s.qCur := rfl

/-! ### setHL -/

@[simp] theorem State.setHL_a (s : State) (v : Word) : (s.setHL v).a = s.a := rfl
@[simp] theorem State.setHL_f (s : State) (v : Word) : (s.setHL v).f = s.f := rfl
@[simp] theorem State.setHL_b (s : State) (v : Word) : (s.setHL v).b = s.b := rfl
@[simp] theorem State.setHL_c (s : State) (v : Word) : (s.setHL v).c = s.c := rfl
@[simp] theorem State.setHL_d (s : State) (v : Word) : (s.setHL v).d = s.d := rfl
@[simp] theorem State.setHL_e (s : State) (v : Word) : (s.setHL v).e = s.e := rfl
@[simp] theorem State.setHL_h (s : State) (v : Word) : (s.setHL v).h = hi8 v := rfl
@[simp] theorem State.setHL_l (s : State) (v : Word) : (s.setHL v).l = lo8 v := rfl
@[simp] theorem State.setHL_altA (s : State) (v : Word) : (s.setHL v).altA = s.altA := rfl
@[simp] theorem State.setHL_altF (s : State) (v : Word) : (s.setHL v).altF = s.altF := rfl
@[simp] theorem State.setHL_altB (s : State) (v : Word) : (s.setHL v).altB = s.altB := rfl
@[simp] theorem State.setHL_altC (s : State) (v : Word) : (s.setHL v).altC = s.altC := rfl
@[simp] theorem State.setHL_altD (s : State) (v : Word) : (s.setHL v).altD = s.altD := rfl
@[simp] theorem State.setHL_altE (s : State) (v : Word) : (s.setHL v).altE = s.altE := rfl
@[simp] theorem State.setHL_altH (s : State) (v : Word) : (s.setHL v).altH = s.altH := rfl
@[simp] theorem State.setHL_altL (s : State) (v : Word) : (s.setHL v).altL = s.altL := rfl
@[simp] theorem State.setHL_ix (s : State) (v : Word) : (s.setHL v).ix = s.ix := rfl
@[simp] theorem State.setHL_iy (s : State) (v : Word) : (s.setHL v).iy = s.iy := rfl
@[simp] theorem State.setHL_sp (s : State) (v : Word) : (s.setHL v).sp = s.sp := rfl
@[simp] theorem State.setHL_pc (s : State) (v : Word) : (s.setHL v).pc = s.pc := rfl
@[simp] theorem State.setHL_i (s : State) (v : Word) : (s.setHL v).i = s.i := rfl
@[simp] theorem State.setHL_r7 (s : State) (v : Word) : (s.setHL v).r7 = s.r7 := rfl
@[simp] theorem State.setHL_rhi (s : State) (v : Word) : (s.setHL v).rhi = s.rhi := rfl
@[simp] theorem State.setHL_memptr (s : State) (v : Word) : (s.setHL v).memptr = s.memptr := rfl
@[simp] theorem State.setHL_qLast (s : State) (v : Word) : (s.setHL v).qLast = s.qLast := rfl
@[simp] theorem State.setHL_iff1 (s : State) (v : Word) : (s.setHL v).iff1 = s.iff1 := rfl
@[simp] theorem State.setHL_iff2 (s : State) (v : Word) : (s.setHL v).iff2 = s.iff2 := rfl
@[simp] theorem State.setHL_im (s : State) (v : Word) : (s.setHL v).im = s.im := rfl
@[simp] theorem State.setHL_halted (s : State) (v : Word) : (s.setHL v).halted = s.halted := rfl
@[simp] theorem State.setHL_pendingEI (s : State) (v : Word) : (s.setHL v).pendingEI = s.pendingEI := rfl
@[simp] theorem State.setHL_intLine (s : State) (v : Word) : (s.setHL v).intLine = s.intLine := rfl
@[simp] theorem State.setHL_nmiPending (s : State) (v : Word) : (s.setHL v).nmiPending = s.nmiPending := rfl
@[simp] theorem State.setHL_pfx (s : State) (v : Word) : (s.setHL v).pfx = s.pfx := rfl
@[simp] theorem State.setHL_pinResetReq (s : State) (v : Word) : (s.setHL v).pinResetReq = s.pinResetReq := rfl
@[simp] theorem State.setHL_bp (s : State) (v : Word) : (s.setHL v).bp = s.bp := rfl
@[simp] theorem State.setHL_traceEnabled (s : State) (v : Word) : (s.setHL v).traceEnabled = s.traceEnabled := rfl
@[simp] theorem State.setHL_mem (s : State) (v : Word) : (s.setHL v).mem = s.mem := rfl
@[simp] theorem State.setHL_bpHook (s : State) (v : Word) : (s.setHL v).bpHook = s.bpHook := rfl
@[simp] theorem State.setHL_history (s : State) (v : Word) : (s.setHL v).history = s.history := rfl
@[simp] theorem State.setHL_portInputs (s : State) (v : Word) : (s.setHL v).portInputs = s.portInputs := rfl
@[simp] theorem State.setHL_ackInputs (s : State) (v : Word) : (s.setHL v).ackInputs = s.ackInputs := rfl
@[simp] theorem State.setHL_params (s : State) (v : Word) : (s.setHL v).params = s.params := rfl
@[simp] theorem State.setHL_portDraws (s : State) (v : Word) : (s.setHL v).portDraws = s.portDraws := rfl
@[simp] theorem State.setHL_ackDraws (s : State) (v : Word) : (s.setHL v).ackDraws = s.ackDraws := rfl
@[simp] theorem State.setHL_qCur (s : State) (v : Word) : (s.setHL v).qCur = s.qCur := rfl

/-! ### memWrite -/

@[simp] theorem State.memWrite_a (s : State) (a : Word) (v : Byte) : (s.memWrite a v).a = s.a := rfl
@[simp] theorem State.memWrite_f (s : State) (a : Word) (v : Byte) : (s.memWrite a v).f = s.f := rfl
@[simp] theorem State.memWrite_b (s : State) (a : Word) (v : Byte) : (s.memWrite a v).b = s.b := rfl
@[simp] theorem State.memWrite_c (s : State) (a : Word) (v : Byte) : (s.memWrite a v).c = s.c := rfl
@[simp] theorem State.memWrite_d (s : State) (a : Word) (v : Byte) : (s.memWrite a v).d = s.d := rfl
@[simp] theorem State.memWrite_e (s : State) (a : Word) (v : Byte) : (s.memWrite a v).e = s.e := rfl
@[simp] theorem State.memWrite_h (s : State) (a : Word) (v : Byte) : (s.memWrite a v).h = s.h := rfl
@[simp] theorem State.memWrite_l (s : State) (a : Word) (v : Byte) : (s.memWrite a v).l = s.l := rfl
@[simp] theorem State.memWrite_altA (s : State) (a : Word) (v : Byte) : (s.memWrite a v).altA = s.altA := rfl
@[simp] theorem State.memWrite_altF (s : State) (a : Word) (v : Byte) : (s.memWrite a v).altF = s.altF := rfl
@[simp] theorem State.memWrite_altB (s : State) (a : Word) (v : Byte) : (s.memWrite a v).altB = s.altB := rfl
@[simp] theorem State.memWrite_altC (s : State) (a : Word) (v : Byte) : (s.memWrite a v).altC = s.altC := rfl
@[simp] theorem State.memWrite_altD (s : State) (a : Word) (v : Byte) : (s.memWrite a v).altD = s.altD := rfl
@[simp] theorem State.memWrite_altE (s : State) (a : Word) (v : Byte) : (s.memWrite a v).altE = s.altE := rfl
@[simp] theorem State.memWrite_altH (s : State) (a : Word) (v : Byte) : (s.memWrite a v).altH = s.altH := rfl
@[simp] theorem State.memWrite_altL (s : State) (a : Word) (v : Byte) : (s.memWrite a v).altL = s.altL := rfl
@[simp] theorem State.memWrite_ix (s : State) (a : Word) (v : Byte) : (s.memWrite a v).ix = s.ix := rfl
@[simp] theorem State.memWrite_iy (s : State) (a : Word) (v : Byte) : (s.memWrite a v).iy = s.iy := rfl
@[simp] theorem State.memWrite_sp (s : State) (a : Word) (v : Byte) : (s.memWrite a v).sp = s.sp := rfl
@[simp] theorem State.memWrite_pc (s : State) (a : Word) (v : Byte) : (s.memWrite a v).pc = s.pc := rfl
@[simp] theorem State.memWrite_i (s : State) (a : Word) (v : Byte) : (s.memWrite a v).i = s.i := rfl
@[simp] theorem State.memWrite_r7 (s : State) (a : Word) (v : Byte) : (s.memWrite a v).r7 = s.r7 := rfl
@[simp] theorem State.memWrite_rhi (s : State) (a : Word) (v : Byte) : (s.memWrite a v).rhi = s.rhi := rfl
@[simp] theorem State.memWrite_memptr (s : State) (a : Word) (v : Byte) : (s.memWrite a v).memptr = s.memptr := rfl
@[simp] theorem State.memWrite_qLast (s : State) (a : Word) (v : Byte) : (s.memWrite a v).qLast = s.qLast := rfl
@[simp] theorem State.memWrite_iff1 (s : State) (a : Word) (v : Byte) : (s.memWrite a v).iff1 = s.iff1 := rfl
@[simp] theorem State.memWrite_iff2 (s : State) (a : Word) (v : Byte) : (s.memWrite a v).iff2 = s.iff2 := rfl
@[simp] theorem State.memWrite_im (s : State) (a : Word) (v : Byte) : (s.memWrite a v).im = s.im := rfl
@[simp] theorem State.memWrite_halted (s : State) (a : Word) (v : Byte) : (s.memWrite a v).halted = s.halted := rfl
@[simp] theorem State.memWrite_pendingEI (s : State) (a : Word) (v : Byte) : (s.memWrite a v).pendingEI = s.pendingEI := rfl
@[simp] theorem State.memWrite_intLine (s : State) (a : Word) (v : Byte) : (s.memWrite a v).intLine = s.intLine := rfl
@[simp] theorem State.memWrite_nmiPending (s : State) (a : Word) (v : Byte) : (s.memWrite a v).nmiPending = s.nmiPending := rfl
@[simp] theorem State.memWrite_pfx (s : State) (a : Word) (v : Byte) : (s.memWrite a v).pfx = s.pfx := rfl
@[simp] theorem State.memWrite_pinResetReq (s : State) (a : Word) (v : Byte) : (s.memWrite a v).pinResetReq = s.pinResetReq := rfl
@[simp] theorem State.memWrite_bp (s : State) (a : Word) (v : Byte) : (s.memWrite a v).bp = s.bp := rfl
@[simp] theorem State.memWrite_traceEnabled (s : State) (a : Word) (v : Byte) : (s.memWrite a v).traceEnabled = s.traceEnabled := rfl
@[simp] theorem State.memWrite_mem (s : State) (a : Word) (v : Byte) : (s.memWrite a v).mem = s.mem.write a v := rfl
@[simp] theorem State.memWrite_bpHook (s : State) (a : Word) (v : Byte) : (s.memWrite a v).bpHook = s.bpHook := rfl
@[simp] theorem State.memWrite_history (s : State) (a : Word) (v : Byte) : (s.memWrite a v).history = .write a v :: s.history := rfl
@[simp] theorem State.memWrite_portInputs (s : State) (a : Word) (v : Byte) : (s.memWrite a v).portInputs = s.portInputs := rfl
@[simp] theorem State.memWrite_ackInputs (s : State) (a : Word) (v : Byte) : (s.memWrite a v).ackInputs = s.ackInputs := rfl
@[simp] theorem State.memWrite_params (s : State) (a : Word) (v : Byte) : (s.memWrite a v).params = s.params := rfl
@[simp] theorem State.memWrite_portDraws (s : State) (a : Word) (v : Byte) : (s.memWrite a v).portDraws = s.portDraws := rfl
@[simp] theorem State.memWrite_ackDraws (s : State) (a : Word) (v : Byte) : (s.memWrite a v).ackDraws = s.ackDraws := rfl
@[simp] theorem State.memWrite_qCur (s : State) (a : Word) (v : Byte) : (s.memWrite a v).qCur = s.qCur := rfl

/-! ### setAF8 -/

@[simp] theorem State.setAF8_a (s : State) (o : Out8) : (s.setAF8 o).a = o.val := rfl
@[simp] theorem State.setAF8_f (s : State) (o : Out8) : (s.setAF8 o).f = o.f := rfl
@[simp] theorem State.setAF8_b (s : State) (o : Out8) : (s.setAF8 o).b = s.b := rfl
@[simp] theorem State.setAF8_c (s : State) (o : Out8) : (s.setAF8 o).c = s.c := rfl
@[simp] theorem State.setAF8_d (s : State) (o : Out8) : (s.setAF8 o).d = s.d := rfl
@[simp] theorem State.setAF8_e (s : State) (o : Out8) : (s.setAF8 o).e = s.e := rfl
@[simp] theorem State.setAF8_h (s : State) (o : Out8) : (s.setAF8 o).h = s.h := rfl
@[simp] theorem State.setAF8_l (s : State) (o : Out8) : (s.setAF8 o).l = s.l := rfl
@[simp] theorem State.setAF8_altA (s : State) (o : Out8) : (s.setAF8 o).altA = s.altA := rfl
@[simp] theorem State.setAF8_altF (s : State) (o : Out8) : (s.setAF8 o).altF = s.altF := rfl
@[simp] theorem State.setAF8_altB (s : State) (o : Out8) : (s.setAF8 o).altB = s.altB := rfl
@[simp] theorem State.setAF8_altC (s : State) (o : Out8) : (s.setAF8 o).altC = s.altC := rfl
@[simp] theorem State.setAF8_altD (s : State) (o : Out8) : (s.setAF8 o).altD = s.altD := rfl
@[simp] theorem State.setAF8_altE (s : State) (o : Out8) : (s.setAF8 o).altE = s.altE := rfl
@[simp] theorem State.setAF8_altH (s : State) (o : Out8) : (s.setAF8 o).altH = s.altH := rfl
@[simp] theorem State.setAF8_altL (s : State) (o : Out8) : (s.setAF8 o).altL = s.altL := rfl
@[simp] theorem State.setAF8_ix (s : State) (o : Out8) : (s.setAF8 o).ix = s.ix := rfl
@[simp] theorem State.setAF8_iy (s : State) (o : Out8) : (s.setAF8 o).iy = s.iy := rfl
@[simp] theorem State.setAF8_sp (s : State) (o : Out8) : (s.setAF8 o).sp = s.sp := rfl
@[simp] theorem State.setAF8_pc (s : State) (o : Out8) : (s.setAF8 o).pc = s.pc := rfl
@[simp] theorem State.setAF8_i (s : State) (o : Out8) : (s.setAF8 o).i = s.i := rfl
@[simp] theorem State.setAF8_r7 (s : State) (o : Out8) : (s.setAF8 o).r7 = s.r7 := rfl
@[simp] theorem State.setAF8_rhi (s : State) (o : Out8) : (s.setAF8 o).rhi = s.rhi := rfl
@[simp] theorem State.setAF8_memptr (s : State) (o : Out8) : (s.setAF8 o).memptr = s.memptr := rfl
@[simp] theorem State.setAF8_qLast (s : State) (o : Out8) : (s.setAF8 o).qLast = s.qLast := rfl
@[simp] theorem State.setAF8_iff1 (s : State) (o : Out8) : (s.setAF8 o).iff1 = s.iff1 := rfl
@[simp] theorem State.setAF8_iff2 (s : State) (o : Out8) : (s.setAF8 o).iff2 = s.iff2 := rfl
@[simp] theorem State.setAF8_im (s : State) (o : Out8) : (s.setAF8 o).im = s.im := rfl
@[simp] theorem State.setAF8_halted (s : State) (o : Out8) : (s.setAF8 o).halted = s.halted := rfl
@[simp] theorem State.setAF8_pendingEI (s : State) (o : Out8) : (s.setAF8 o).pendingEI = s.pendingEI := rfl
@[simp] theorem State.setAF8_intLine (s : State) (o : Out8) : (s.setAF8 o).intLine = s.intLine := rfl
@[simp] theorem State.setAF8_nmiPending (s : State) (o : Out8) : (s.setAF8 o).nmiPending = s.nmiPending := rfl
@[simp] theorem State.setAF8_pfx (s : State) (o : Out8) : (s.setAF8 o).pfx = s.pfx := rfl
@[simp] theorem State.setAF8_pinResetReq (s : State) (o : Out8) : (s.setAF8 o).pinResetReq = s.pinResetReq := rfl
@[simp] theorem State.setAF8_bp (s : State) (o : Out8) : (s.setAF8 o).bp = s.bp := rfl
@[simp] theorem State.setAF8_traceEnabled (s : State) (o : Out8) : (s.setAF8 o).traceEnabled = s.traceEnabled := rfl
@[simp] theorem State.setAF8_mem (s : State) (o : Out8) : (s.setAF8 o).mem = s.mem := rfl
@[simp] theorem State.setAF8_bpHook (s : State) (o : Out8) : (s.setAF8 o).bpHook = s.bpHook := rfl
@[simp] theorem State.setAF8_history (s : State) (o : Out8) : (s.setAF8 o).history = s.history := rfl
@[simp] theorem State.setAF8_portInputs (s : State) (o : Out8) : (s.setAF8 o).portInputs = s.portInputs := rfl
@[simp] theorem State.setAF8_ackInputs (s : State) (o : Out8) : (s.setAF8 o).ackInputs = s.ackInputs := rfl
@[simp] theorem State.setAF8_params (s : State) (o : Out8) : (s.setAF8 o).params = s.params := rfl
@[simp] theorem State.setAF8_portDraws (s : State) (o : Out8) : (s.setAF8 o).portDraws = s.portDraws := rfl
@[simp] theorem State.setAF8_ackDraws (s : State) (o : Out8) : (s.setAF8 o).ackDraws = s.ackDraws := rfl
@[simp] theorem State.setAF8_qCur (s : State) (o : Out8) : (s.setAF8 o).qCur = true := rfl

/-! ### setFQ -/

@[simp] theorem State.setFQ_a (s : State) (f : Byte) : (s.setFQ f).a = s.a := rfl
@[simp] theorem State.setFQ_f (s : State) (f : Byte) : (s.setFQ f).f = f := rfl
@[simp] theorem State.setFQ_b (s : State) (f : Byte) : (s.setFQ f).b = s.b := rfl
@[simp] theorem State.setFQ_c (s : State) (f : Byte) : (s.setFQ f).c = s.c := rfl
@[simp] theorem State.setFQ_d (s : State) (f : Byte) : (s.setFQ f).d = s.d := rfl
@[simp] theorem State.setFQ_e (s : State) (f : Byte) : (s.setFQ f).e = s.e := rfl
@[simp] theorem State.setFQ_h (s : State) (f : Byte) : (s.setFQ f).h = s.h := rfl
@[simp] theorem State.setFQ_l (s : State) (f : Byte) : (s.setFQ f).l = s.l := rfl
@[simp] theorem State.setFQ_altA (s : State) (f : Byte) : (s.setFQ f).altA = s.altA := rfl
@[simp] theorem State.setFQ_altF (s : State) (f : Byte) : (s.setFQ f).altF = s.altF := rfl
@[simp] theorem State.setFQ_altB (s : State) (f : Byte) : (s.setFQ f).altB = s.altB := rfl
@[simp] theorem State.setFQ_altC (s : State) (f : Byte) : (s.setFQ f).altC = s.altC := rfl
@[simp] theorem State.setFQ_altD (s : State) (f : Byte) : (s.setFQ f).altD = s.altD := rfl
@[simp] theorem State.setFQ_altE (s : State) (f : Byte) : (s.setFQ f).altE = s.altE := rfl
@[simp] theorem State.setFQ_altH (s : State) (f : Byte) : (s.setFQ f).altH = s.altH := rfl
@[simp] theorem State.setFQ_altL (s : State) (f : Byte) : (s.setFQ f).altL = s.altL := rfl
@[simp] theorem State.setFQ_ix (s : State) (f : Byte) : (s.setFQ f).ix = s.ix := rfl
@[simp] theorem State.setFQ_iy (s : State) (f : Byte) : (s.setFQ f).iy = s.iy := rfl
@[simp] theorem State.setFQ_sp (s : State) (f : Byte) : (s.setFQ f).sp = s.sp := rfl
@[simp] theorem State.setFQ_pc (s : State) (f : Byte) : (s.setFQ f).pc = s.pc := rfl
@[simp] theorem State.setFQ_i (s : State) (f : Byte) : (s.setFQ f).i = s.i := rfl
@[simp] theorem State.setFQ_r7 (s : State) (f : Byte) : (s.setFQ f).r7 = s.r7 := rfl
@[simp] theorem State.setFQ_rhi (s : State) (f : Byte) : (s.setFQ f).rhi = s.rhi := rfl
@[simp] theorem State.setFQ_memptr (s : State) (f : Byte) : (s.setFQ f).memptr = s.memptr := rfl
@[simp] theorem State.setFQ_qLast (s : State) (f : Byte) : (s.setFQ f).qLast = s.qLast := rfl
@[simp] theorem State.setFQ_iff1 (s : State) (f : Byte) : (s.setFQ f).iff1 = s.iff1 := rfl
@[simp] theorem State.setFQ_iff2 (s : State) (f : Byte) : (s.setFQ f).iff2 = s.iff2 := rfl
@[simp] theorem State.setFQ_im (s : State) (f : Byte) : (s.setFQ f).im = s.im := rfl
@[simp] theorem State.setFQ_halted (s : State) (f : Byte) : (s.setFQ f).halted = s.halted := rfl
@[simp] theorem State.setFQ_pendingEI (s : State) (f : Byte) : (s.setFQ f).pendingEI = s.pendingEI := rfl
@[simp] theorem State.setFQ_intLine (s : State) (f : Byte) : (s.setFQ f).intLine = s.intLine := rfl
@[simp] theorem State.setFQ_nmiPending (s : State) (f : Byte) : (s.setFQ f).nmiPending = s.nmiPending := rfl
@[simp] theorem State.setFQ_pfx (s : State) (f : Byte) : (s.setFQ f).pfx = s.pfx := rfl
@[simp] theorem State.setFQ_pinResetReq (s : State) (f : Byte) : (s.setFQ f).pinResetReq = s.pinResetReq := rfl
@[simp] theorem State.setFQ_bp (s : State) (f : Byte) : (s.setFQ f).bp = s.bp := rfl
@[simp] theorem State.setFQ_traceEnabled (s : State) (f : Byte) : (s.setFQ f).traceEnabled = s.traceEnabled := rfl
@[simp] theorem State.setFQ_mem (s : State) (f : Byte) : (s.setFQ f).mem = s.mem := rfl
@[simp] theorem State.setFQ_bpHook (s : State) (f : Byte) : (s.setFQ f).bpHook = s.bpHook := rfl
@[simp] theorem State.setFQ_history (s : State) (f : Byte) : (s.setFQ f).history = s.history := rfl
@[simp] theorem State.setFQ_portInputs (s : State) (f : Byte) : (s.setFQ f).portInputs = s.portInputs := rfl
@[simp] theorem State.setFQ_ackInputs (s : State) (f : Byte) : (s.setFQ f).ackInputs = s.ackInputs := rfl
@[simp] theorem State.setFQ_params (s : State) (f : Byte) : (s.setFQ f).params = s.params := rfl
@[simp] theorem State.setFQ_portDraws (s : State) (f : Byte) : (s.setFQ f).portDraws = s.portDraws := rfl
@[simp] theorem State.setFQ_ackDraws (s : State) (f : Byte) : (s.setFQ f).ackDraws = s.ackDraws := rfl
@[simp] theorem State.setFQ_qCur (s : State) (f : Byte) : (s.setFQ f).qCur = true := rfl

/-! ### setF16 -/

@[simp] theorem State.setF16_a (s : State) (a : Word) (f : Byte) : (s.setF16 a f).a = s.a := rfl
@[simp] theorem State.setF16_f (s : State) (a : Word) (f : Byte) : (s.setF16 a f).f = f := rfl
@[simp] theorem State.setF16_b (s : State) (a : Word) (f : Byte) : (s.setF16 a f).b = s.b := rfl
@[simp] theorem State.setF16_c (s : State) (a : Word) (f : Byte) : (s.setF16 a f).c = s.c := rfl
@[simp] theorem State.setF16_d (s : State) (a : Word) (f : Byte) : (s.setF16 a f).d = s.d := rfl
@[simp] theorem State.setF16_e (s : State) (a : Word) (f : Byte) : (s.setF16 a f).e = s.e := rfl
@[simp] theorem State.setF16_h (s : State) (a : Word) (f : Byte) : (s.setF16 a f).h = s.h := rfl
@[simp] theorem State.setF16_l (s : State) (a : Word) (f : Byte) : (s.setF16 a f).l = s.l := rfl
@[simp] theorem State.setF16_altA (s : State) (a : Word) (f : Byte) : (s.setF16 a f).altA = s.altA := rfl
@[simp] theorem State.setF16_altF (s : State) (a : Word) (f : Byte) : (s.setF16 a f).altF = s.altF := rfl
@[simp] theorem State.setF16_altB (s : State) (a : Word) (f : Byte) : (s.setF16 a f).altB = s.altB := rfl
@[simp] theorem State.setF16_altC (s : State) (a : Word) (f : Byte) : (s.setF16 a f).altC = s.altC := rfl
@[simp] theorem State.setF16_altD (s : State) (a : Word) (f : Byte) : (s.setF16 a f).altD = s.altD := rfl
@[simp] theorem State.setF16_altE (s : State) (a : Word) (f : Byte) : (s.setF16 a f).altE = s.altE := rfl
@[simp] theorem State.setF16_altH (s : State) (a : Word) (f : Byte) : (s.setF16 a f).altH = s.altH := rfl
@[simp] theorem State.setF16_altL (s : State) (a : Word) (f : Byte) : (s.setF16 a f).altL = s.altL := rfl
@[simp] theorem State.setF16_ix (s : State) (a : Word) (f : Byte) : (s.setF16 a f).ix = s.ix := rfl
@[simp] theorem State.setF16_iy (s : State) (a : Word) (f : Byte) : (s.setF16 a f).iy = s.iy := rfl
@[simp] theorem State.setF16_sp (s : State) (a : Word) (f : Byte) : (s.setF16 a f).sp = s.sp := rfl
@[simp] theorem State.setF16_pc (s : State) (a : Word) (f : Byte) : (s.setF16 a f).pc = s.pc := rfl
@[simp] theorem State.setF16_i (s : State) (a : Word) (f : Byte) : (s.setF16 a f).i = s.i := rfl
@[simp] theorem State.setF16_r7 (s : State) (a : Word) (f : Byte) : (s.setF16 a f).r7 = s.r7 := rfl
@[simp] theorem State.setF16_rhi (s : State) (a : Word) (f : Byte) : (s.setF16 a f).rhi = s.rhi := rfl
@[simp] theorem State.setF16_memptr (s : State) (a : Word) (f : Byte) : (s.setF16 a f).memptr = a + 1#16 := rfl
@[simp] theorem State.setF16_qLast (s : State) (a : Word) (f : Byte) : (s.setF16 a f).qLast = s.qLast := rfl
@[simp] theorem State.setF16_iff1 (s : State) (a : Word) (f : Byte) : (s.setF16 a f).iff1 = s.iff1 := rfl
@[simp] theorem State.setF16_iff2 (s : State) (a : Word) (f : Byte) : (s.setF16 a f).iff2 = s.iff2 := rfl
@[simp] theorem State.setF16_im (s : State) (a : Word) (f : Byte) : (s.setF16 a f).im = s.im := rfl
@[simp] theorem State.setF16_halted (s : State) (a : Word) (f : Byte) : (s.setF16 a f).halted = s.halted := rfl
@[simp] theorem State.setF16_pendingEI (s : State) (a : Word) (f : Byte) : (s.setF16 a f).pendingEI = s.pendingEI := rfl
@[simp] theorem State.setF16_intLine (s : State) (a : Word) (f : Byte) : (s.setF16 a f).intLine = s.intLine := rfl
@[simp] theorem State.setF16_nmiPending (s : State) (a : Word) (f : Byte) : (s.setF16 a f).nmiPending = s.nmiPending := rfl
@[simp] theorem State.setF16_pfx (s : State) (a : Word) (f : Byte) : (s.setF16 a f).pfx = s.pfx := rfl
@[simp] theorem State.setF16_pinResetReq (s : State) (a : Word) (f : Byte) : (s.setF16 a f).pinResetReq = s.pinResetReq := rfl
@[simp] theorem State.setF16_bp (s : State) (a : Word) (f : Byte) : (s.setF16 a f).bp = s.bp := rfl
@[simp] theorem State.setF16_traceEnabled (s : State) (a : Word) (f : Byte) : (s.setF16 a f).traceEnabled = s.traceEnabled := rfl
@[simp] theorem State.setF16_mem (s : State) (a : Word) (f : Byte) : (s.setF16 a f).mem = s.mem := rfl
@[simp] theorem State.setF16_bpHook (s : State) (a : Word) (f : Byte) : (s.setF16 a f).bpHook = s.bpHook := rfl
@[simp] theorem State.setF16_history (s : State) (a : Word) (f : Byte) : (s.setF16 a f).history = s.history := rfl
@[simp] theorem State.setF16_portInputs (s : State) (a : Word) (f : Byte) : (s.setF16 a f).portInputs = s.portInputs := rfl
@[simp] theorem State.setF16_ackInputs (s : State) (a : Word) (f : Byte) : (s.setF16 a f).ackInputs = s.ackInputs := rfl
@[simp] theorem State.setF16_params (s : State) (a : Word) (f : Byte) : (s.setF16 a f).params = s.params := rfl
@[simp] theorem State.setF16_portDraws (s : State) (a : Word) (f : Byte) : (s.setF16 a f).portDraws = s.portDraws := rfl
@[simp] theorem State.setF16_ackDraws (s : State) (a : Word) (f : Byte) : (s.setF16 a f).ackDraws = s.ackDraws := rfl
@[simp] theorem State.setF16_qCur (s : State) (a : Word) (f : Byte) : (s.setF16 a f).qCur = true := rfl

/-! ### leavePrefix -/

@[simp] theorem State.leavePrefix_a (s : State) : (s.leavePrefix).a = s.a := rfl
@[simp] theorem State.leavePrefix_f (s : State) : (s.leavePrefix).f = s.f := rfl
@[simp] theorem State.leavePrefix_b (s : State) : (s.leavePrefix).b = s.b := rfl
@[simp] theorem State.leavePrefix_c (s : State) : (s.leavePrefix).c = s.c := rfl
@[simp] theorem State.leavePrefix_d (s : State) : (s.leavePrefix).d = s.d := rfl
@[simp] theorem State.leavePrefix_e (s : State) : (s.leavePrefix).e = s.e := rfl
@[simp] theorem State.leavePrefix_h (s : State) : (s.leavePrefix).h = s.h := rfl
@[simp] theorem State.leavePrefix_l (s : State) : (s.leavePrefix).l = s.l := rfl
@[simp] theorem State.leavePrefix_altA (s : State) : (s.leavePrefix).altA = s.altA := rfl
@[simp] theorem State.leavePrefix_altF (s : State) : (s.leavePrefix).altF = s.altF := rfl
@[simp] theorem State.leavePrefix_altB (s : State) : (s.leavePrefix).altB = s.altB := rfl
@[simp] theorem State.leavePrefix_altC (s : State) : (s.leavePrefix).altC = s.altC := rfl
@[simp] theorem State.leavePrefix_altD (s : State) : (s.leavePrefix).altD = s.altD := rfl
@[simp] theorem State.leavePrefix_altE (s : State) : (s.leavePrefix).altE = s.altE := rfl
@[simp] theorem State.leavePrefix_altH (s : State) : (s.leavePrefix).altH = s.altH := rfl
@[simp] theorem State.leavePrefix_altL (s : State) : (s.leavePrefix).altL = s.altL := rfl
@[simp] theorem State.leavePrefix_ix (s : State) : (s.leavePrefix).ix = s.ix := rfl
@[simp] theorem State.leavePrefix_iy (s : State) : (s.leavePrefix).iy = s.iy := rfl
@[simp] theorem State.leavePrefix_sp (s : State) : (s.leavePrefix).sp = s.sp := rfl
@[simp] theorem State.leavePrefix_pc (s : State) : (s.leavePrefix).pc = s.pc := rfl
@[simp] theorem State.leavePrefix_i (s : State) : (s.leavePrefix).i = s.i := rfl
@[simp] theorem State.leavePrefix_r7 (s : State) : (s.leavePrefix).r7 = s.r7 := rfl
@[simp] theorem State.leavePrefix_rhi (s : State) : (s.leavePrefix).rhi = s.rhi := rfl
@[simp] theorem State.leavePrefix_memptr (s : State) : (s.leavePrefix).memptr = s.memptr := rfl
@[simp] theorem State.leavePrefix_qLast (s : State) : (s.leavePrefix).qLast = s.qLast := rfl
@[simp] theorem State.leavePrefix_iff1 (s : State) : (s.leavePrefix).iff1 = s.iff1 := rfl
@[simp] theorem State.leavePrefix_iff2 (s : State) : (s.leavePrefix).iff2 = s.iff2 := rfl
@[simp] theorem State.leavePrefix_im (s : State) : (s.leavePrefix).im = s.im := rfl
@[simp] theorem State.leavePrefix_halted (s : State) : (s.leavePrefix).halted = s.halted := rfl
@[simp] theorem State.leavePrefix_pendingEI (s : State) : (s.leavePrefix).pendingEI = (s.pfx != .noPfx && s.pendingEI) := rfl
@[simp] theorem State.leavePrefix_intLine (s : State) : (s.leavePrefix).intLine = s.intLine := rfl
@[simp] theorem State.leavePrefix_nmiPending (s : State) : (s.leavePrefix).nmiPending = s.nmiPending := rfl
@[simp] theorem State.leavePrefix_pfx (s : State) : (s.leavePrefix).pfx = .noPfx := rfl
@[simp] theorem State.leavePrefix_pinResetReq (s : State) : (s.leavePrefix).pinResetReq = s.pinResetReq := rfl
@[simp] theorem State.leavePrefix_bp (s : State) : (s.leavePrefix).bp = s.bp := rfl
@[simp] theorem State.leavePrefix_traceEnabled (s : State) : (s.leavePrefix).traceEnabled = s.traceEnabled := rfl
@[simp] theorem State.leavePrefix_mem (s : State) : (s.leavePrefix).mem = s.mem := rfl
@[simp] theorem State.leavePrefix_bpHook (s : State) : (s.leavePrefix).bpHook = s.bpHook := rfl
@[simp] theorem State.leavePrefix_history (s : State) : (s.leavePrefix).history = s.history := rfl
@[simp] theorem State.leavePrefix_portInputs (s : State) : (s.leavePrefix).portInputs = s.portInputs := rfl
@[simp] theorem State.leavePrefix_ackInputs (s : State) : (s.leavePrefix).ackInputs = s.ackInputs := rfl
@[simp] theorem State.leavePrefix_params (s : State) : (s.leavePrefix).params = s.params := rfl
@[simp] theorem State.leavePrefix_portDraws (s : State) : (s.leavePrefix).portDraws = s.portDraws := rfl
@[simp] theorem State.leavePrefix_ackDraws (s : State) : (s.leavePrefix).ackDraws = s.ackDraws := rfl
@[simp] theorem State.leavePrefix_qCur (s : State) : (s.leavePrefix).qCur = s.qCur := rfl

/-! ### memRead -/

@[simp] theorem State.memRead_a (s : State) (a : Word) : (s.memRead a).2.a = s.a := rfl
@[simp] theorem State.memRead_f (s : State) (a : Word) : (s.memRead a).2.f = s.f := rfl
@[simp] theorem State.memRead_b (s : State) (a : Word) : (s.memRead a).2.b = s.b := rfl
@[simp] theorem State.memRead_c (s : State) (a : Word) : (s.memRead a).2.c = s.c := rfl
@[simp] theorem State.memRead_d (s : State) (a : Word) : (s.memRead a).2.d = s.d := rfl
@[simp] theorem State.memRead_e (s : State) (a : Word) : (s.memRead a).2.e = s.e := rfl
@[simp] theorem State.memRead_h (s : State) (a : Word) : (s.memRead a).2.h = s.h := rfl
@[simp] theorem State.memRead_l (s : State) (a : Word) : (s.memRead a).2.l = s.l := rfl
@[simp] theorem State.memRead_altA (s : State) (a : Word) : (s.memRead a).2.altA = s.altA := rfl
@[simp] theorem State.memRead_altF (s : State) (a : Word) : (s.memRead a).2.altF = s.altF := rfl
@[simp] theorem State.memRead_altB (s : State) (a : Word) : (s.memRead a).2.altB = s.altB := rfl
@[simp] theorem State.memRead_altC (s : State) (a : Word) : (s.memRead a).2.altC = s.altC := rfl
@[simp] theorem State.memRead_altD (s : State) (a : Word) : (s.memRead a).2.altD = s.altD := rfl
@[simp] theorem State.memRead_altE (s : State) (a : Word) : (s.memRead a).2.altE = s.altE := rfl
@[simp] theorem State.memRead_altH (s : State) (a : Word) : (s.memRead a).2.altH = s.altH := rfl
@[simp] theorem State.memRead_altL (s : State) (a : Word) : (s.memRead a).2.altL = s.altL := rfl
@[simp] theorem State.memRead_ix (s : State) (a : Word) : (s.memRead a).2.ix = s.ix := rfl
@[simp] theorem State.memRead_iy (s : State) (a : Word) : (s.memRead a).2.iy = s.iy := rfl
@[simp] theorem State.memRead_sp (s : State) (a : Word) : (s.memRead a).2.sp = s.sp := rfl
@[simp] theorem State.memRead_pc (s : State) (a : Word) : (s.memRead a).2.pc = s.pc := rfl
@[simp] theorem State.memRead_i (s : State) (a : Word) : (s.memRead a).2.i = s.i := rfl
@[simp] theorem State.memRead_r7 (s : State) (a : Word) : (s.memRead a).2.r7 = s.r7 := rfl
@[simp] theorem State.memRead_rhi (s : State) (a : Word) : (s.memRead a).2.rhi = s.rhi := rfl
@[simp] theorem State.memRead_memptr (s : State) (a : Word) : (s.memRead a).2.memptr = s.memptr := rfl
@[simp] theorem State.memRead_qLast (s : State) (a : Word) : (s.memRead a).2.qLast = s.qLast := rfl
@[simp] theorem State.memRead_iff1 (s : State) (a : Word) : (s.memRead a).2.iff1 = s.iff1 := rfl
@[simp] theorem State.memRead_iff2 (s : State) (a : Word) : (s.memRead a).2.iff2 = s.iff2 := rfl
@[simp] theorem State.memRead_im (s : State) (a : Word) : (s.memRead a).2.im = s.im := rfl
@[simp] theorem State.memRead_halted (s : State) (a : Word) : (s.memRead a).2.halted = s.halted := rfl
@[simp] theorem State.memRead_pendingEI (s : State) (a : Word) : (s.memRead a).2.pendingEI = s.pendingEI := rfl
@[simp] theorem State.memRead_intLine (s : State) (a : Word) : (s.memRead a).2.intLine = s.intLine := rfl
@[simp] theorem State.memRead_nmiPending (s : State) (a : Word) : (s.memRead a).2.nmiPending = s.nmiPending := rfl
@[simp] theorem State.memRead_pfx (s : State) (a : Word) : (s.memRead a).2.pfx = s.pfx := rfl
@[simp] theorem State.memRead_pinResetReq (s : State) (a : Word) : (s.memRead a).2.pinResetReq = s.pinResetReq := rfl
@[simp] theorem State.memRead_bp (s : State) (a : Word) : (s.memRead a).2.bp = s.bp := rfl
@[simp] theorem State.memRead_traceEnabled (s : State) (a : Word) : (s.memRead a).2.traceEnabled = s.traceEnabled := rfl
@[simp] theorem State.memRead_mem (s : State) (a : Word) : (s.memRead a).2.mem = s.mem := rfl
@[simp] theorem State.memRead_bpHook (s : State) (a : Word) : (s.memRead a).2.bpHook = s.bpHook := rfl
@[simp] theorem State.memRead_history (s : State) (a : Word) : (s.memRead a).2.history =
    .read a (s.peek a) :: s.history := rfl
@[simp] theorem State.memRead_portInputs (s : State) (a : Word) : (s.memRead a).2.portInputs = s.portInputs := rfl
@[simp] theorem State.memRead_ackInputs (s : State) (a : Word) : (s.memRead a).2.ackInputs = s.ackInputs := rfl
@[simp] theorem State.memRead_params (s : State) (a : Word) : (s.memRead a).2.params = s.params := rfl
@[simp] theorem State.memRead_portDraws (s : State) (a : Word) : (s.memRead a).2.portDraws = s.portDraws := rfl
@[simp] theorem State.memRead_ackDraws (s : State) (a : Word) : (s.memRead a).2.ackDraws = s.ackDraws := rfl
@[simp] theorem State.memRead_qCur (s : State) (a : Word) : (s.memRead a).2.qCur = s.qCur := rfl

/-! ### memRead16 -/

@[simp] theorem State.memRead16_a (s : State) (a : Word) : (s.memRead16 a).2.a = s.a := rfl
@[simp] theorem State.memRead16_f (s : State) (a : Word) : (s.memRead16 a).2.f = s.f := rfl
@[simp] theorem State.memRead16_b (s : State) (a : Word) : (s.memRead16 a).2.b = s.b := rfl
@[simp] theorem State.memRead16_c (s : State) (a : Word) : (s.memRead16 a).2.c = s.c := rfl
@[simp] theorem State.memRead16_d (s : State) (a : Word) : (s.memRead16 a).2.d = s.d := rfl
@[simp] theorem State.memRead16_e (s : State) (a : Word) : (s.memRead16 a).2.e = s.e := rfl
@[simp] theorem State.memRead16_h (s : State) (a : Word) : (s.memRead16 a).2.h = s.h := rfl
@[simp] theorem State.memRead16_l (s : State) (a : Word) : (s.memRead16 a).2.l = s.l := rfl
@[simp] theorem State.memRead16_altA (s : State) (a : Word) : (s.memRead16 a).2.altA = s.altA := rfl
@[simp] theorem State.memRead16_altF (s : State) (a : Word) : (s.memRead16 a).2.altF = s.altF := rfl
@[simp] theorem State.memRead16_altB (s : State) (a : Word) : (s.memRead16 a).2.altB = s.altB := rfl
@[simp] theorem State.memRead16_altC (s : State) (a : Word) : (s.memRead16 a).2.altC = s.altC := rfl
@[simp] theorem State.memRead16_altD (s : State) (a : Word) : (s.memRead16 a).2.altD = s.altD := rfl
@[simp] theorem State.memRead16_altE (s : State) (a : Word) : (s.memRead16 a).2.altE = s.altE := rfl
@[simp] theorem State.memRead16_altH (s : State) (a : Word) : (s.memRead16 a).2.altH = s.altH := rfl
@[simp] theorem State.memRead16_altL (s : State) (a : Word) : (s.memRead16 a).2.altL = s.altL := rfl
@[simp] theorem State.memRead16_ix (s : State) (a : Word) : (s.memRead16 a).2.ix = s.ix := rfl
@[simp] theorem State.memRead16_iy (s : State) (a : Word) : (s.memRead16 a).2.iy = s.iy := rfl
@[simp] theorem State.memRead16_sp (s : State) (a : Word) : (s.memRead16 a).2.sp = s.sp := rfl
@[simp] theorem State.memRead16_pc (s : State) (a : Word) : (s.memRead16 a).2.pc = s.pc := rfl
@[simp] theorem State.memRead16_i (s : State) (a : Word) : (s.memRead16 a).2.i = s.i := rfl
@[simp] theorem State.memRead16_r7 (s : State) (a : Word) : (s.memRead16 a).2.r7 = s.r7 := rfl
@[simp] theorem State.memRead16_rhi (s : State) (a : Word) : (s.memRead16 a).2.rhi = s.rhi := rfl
@[simp] theorem State.memRead16_memptr (s : State) (a : Word) : (s.memRead16 a).2.memptr = s.memptr := rfl
@[simp] theorem State.memRead16_qLast (s : State) (a : Word) : (s.memRead16 a).2.qLast = s.qLast := rfl
@[simp] theorem State.memRead16_iff1 (s : State) (a : Word) : (s.memRead16 a).2.iff1 = s.iff1 := rfl
@[simp] theorem State.memRead16_iff2 (s : State) (a : Word) : (s.memRead16 a).2.iff2 = s.iff2 := rfl
@[simp] theorem State.memRead16_im (s : State) (a : Word) : (s.memRead16 a).2.im = s.im := rfl
@[simp] theorem State.memRead16_halted (s : State) (a : Word) : (s.memRead16 a).2.halted = s.halted := rfl
@[simp] theorem State.memRead16_pendingEI (s : State) (a : Word) : (s.memRead16 a).2.pendingEI = s.pendingEI := rfl
@[simp] theorem State.memRead16_intLine (s : State) (a : Word) : (s.memRead16 a).2.intLine = s.intLine := rfl
@[simp] theorem State.memRead16_nmiPending (s : State) (a : Word) : (s.memRead16 a).2.nmiPending = s.nmiPending := rfl
@[simp] theorem State.memRead16_pfx (s : State) (a : Word) : (s.memRead16 a).2.pfx = s.pfx := rfl
@[simp] theorem State.memRead16_pinResetReq (s : State) (a : Word) : (s.memRead16 a).2.pinResetReq = s.pinResetReq := rfl
@[simp] theorem State.memRead16_bp (s : State) (a : Word) : (s.memRead16 a).2.bp = s.bp := rfl
@[simp] theorem State.memRead16_traceEnabled (s : State) (a : Word) : (s.memRead16 a).2.traceEnabled = s.traceEnabled := rfl
@[simp] theorem State.memRead16_mem (s : State) (a : Word) : (s.memRead16 a).2.mem = s.mem := rfl
@[simp] theorem State.memRead16_bpHook (s : State) (a : Word) : (s.memRead16 a).2.bpHook = s.bpHook := rfl
@[simp] theorem State.memRead16_history (s : State) (a : Word) : (s.memRead16 a).2.history =
    .read (a + 1#16) (s.peek (a + 1#16)) :: .read a (s.peek a) :: s.history := rfl
@[simp] theorem State.memRead16_portInputs (s : State) (a : Word) : (s.memRead16 a).2.portInputs = s.portInputs := rfl
@[simp] theorem State.memRead16_ackInputs (s : State) (a : Word) : (s.memRead16 a).2.ackInputs = s.ackInputs := rfl
@[simp] theorem State.memRead16_params (s : State) (a : Word) : (s.memRead16 a).2.params = s.params := rfl
@[simp] theorem State.memRead16_portDraws (s : State) (a : Word) : (s.memRead16 a).2.portDraws = s.portDraws := rfl
@[simp] theorem State.memRead16_ackDraws (s : State) (a : Word) : (s.memRead16 a).2.ackDraws = s.ackDraws := rfl
@[simp] theorem State.memRead16_qCur (s : State) (a : Word) : (s.memRead16 a).2.qCur = s.qCur := rfl

/-! ### memWrite16 -/

@[simp] theorem State.memWrite16_a (s : State) (a v : Word) : (s.memWrite16 a v).a = s.a := rfl
@[simp] theorem State.memWrite16_f (s : State) (a v : Word) : (s.memWrite16 a v).f = s.f := rfl
@[simp] theorem State.memWrite16_b (s : State) (a v : Word) : (s.memWrite16 a v).b = s.b := rfl
@[simp] theorem State.memWrite16_c (s : State) (a v : Word) : (s.memWrite16 a v).c = s.c := rfl
@[simp] theorem State.memWrite16_d (s : State) (a v : Word) : (s.memWrite16 a v).d = s.d := rfl
@[simp] theorem State.memWrite16_e (s : State) (a v : Word) : (s.memWrite16 a v).e = s.e := rfl
@[simp] theorem State.memWrite16_h (s : State) (a v : Word) : (s.memWrite16 a v).h = s.h := rfl
@[simp] theorem State.memWrite16_l (s : State) (a v : Word) : (s.memWrite16 a v).l = s.l := rfl
@[simp] theorem State.memWrite16_altA (s : State) (a v : Word) : (s.memWrite16 a v).altA = s.altA := rfl
@[simp] theorem State.memWrite16_altF (s : State) (a v : Word) : (s.memWrite16 a v).altF = s.altF := rfl
@[simp] theorem State.memWrite16_altB (s : State) (a v : Word) : (s.memWrite16 a v).altB = s.altB := rfl
@[simp] theorem State.memWrite16_altC (s : State) (a v : Word) : (s.memWrite16 a v).altC = s.altC := rfl
@[simp] theorem State.memWrite16_altD (s : State) (a v : Word) : (s.memWrite16 a v).altD = s.altD := rfl
@[simp] theorem State.memWrite16_altE (s : State) (a v : Word) : (s.memWrite16 a v).altE = s.altE := rfl
@[simp] theorem State.memWrite16_altH (s : State) (a v : Word) : (s.memWrite16 a v).altH = s.altH := rfl
@[simp] theorem State.memWrite16_altL (s : State) (a v : Word) : (s.memWrite16 a v).altL = s.altL := rfl
@[simp] theorem State.memWrite16_ix (s : State) (a v : Word) : (s.memWrite16 a v).ix = s.ix := rfl
@[simp] theorem State.memWrite16_iy (s : State) (a v : Word) : (s.memWrite16 a v).iy = s.iy := rfl
@[simp] theorem State.memWrite16_sp (s : State) (a v : Word) : (s.memWrite16 a v).sp = s.sp := rfl
@[simp] theorem State.memWrite16_pc (s : State) (a v : Word) : (s.memWrite16 a v).pc = s.pc := rfl
@[simp] theorem State.memWrite16_i (s : State) (a v : Word) : (s.memWrite16 a v).i = s.i := rfl
@[simp] theorem State.memWrite16_r7 (s : State) (a v : Word) : (s.memWrite16 a v).r7 = s.r7 := rfl
@[simp] theorem State.memWrite16_rhi (s : State) (a v : Word) : (s.memWrite16 a v).rhi = s.rhi := rfl
@[simp] theorem State.memWrite16_memptr (s : State) (a v : Word) : (s.memWrite16 a v).memptr = s.memptr := rfl
@[simp] theorem State.memWrite16_qLast (s : State) (a v : Word) : (s.memWrite16 a v).qLast = s.qLast := rfl
@[simp] theorem State.memWrite16_iff1 (s : State) (a v : Word) : (s.memWrite16 a v).iff1 = s.iff1 := rfl
@[simp] theorem State.memWrite16_iff2 (s : State) (a v : Word) : (s.memWrite16 a v).iff2 = s.iff2 := rfl
@[simp] theorem State.memWrite16_im (s : State) (a v : Word) : (s.memWrite16 a v).im = s.im := rfl
@[simp] theorem State.memWrite16_halted (s : State) (a v : Word) : (s.memWrite16 a v).halted = s.halted := rfl
@[simp] theorem State.memWrite16_pendingEI (s : State) (a v : Word) : (s.memWrite16 a v).pendingEI = s.pendingEI := rfl
@[simp] theorem State.memWrite16_intLine (s : State) (a v : Word) : (s.memWrite16 a v).intLine = s.intLine := rfl
@[simp] theorem State.memWrite16_nmiPending (s : State) (a v : Word) : (s.memWrite16 a v).nmiPending = s.nmiPending := rfl
@[simp] theorem State.memWrite16_pfx (s : State) (a v : Word) : (s.memWrite16 a v).pfx = s.pfx := rfl
@[simp] theorem State.memWrite16_pinResetReq (s : State) (a v : Word) : (s.memWrite16 a v).pinResetReq =
    s.pinResetReq := rfl
@[simp] theorem State.memWrite16_bp (s : State) (a v : Word) : (s.memWrite16 a v).bp = s.bp := rfl
@[simp] theorem State.memWrite16_traceEnabled (s : State) (a v : Word) : (s.memWrite16 a v).traceEnabled =
    s.traceEnabled := rfl
@[simp] theorem State.memWrite16_mem (s : State) (a v : Word) : (s.memWrite16 a v).mem =
    (s.mem.write a (lo8 v)).write (a + 1#16) (hi8 v) := rfl
@[simp] theorem State.memWrite16_bpHook (s : State) (a v : Word) : (s.memWrite16 a v).bpHook = s.bpHook := rfl
@[simp] theorem State.memWrite16_history (s : State) (a v : Word) : (s.memWrite16 a v).history =
    .write (a + 1#16) (hi8 v) :: .write a (lo8 v) :: s.history := rfl
@[simp] theorem State.memWrite16_portInputs (s : State) (a v : Word) : (s.memWrite16 a v).portInputs = s.portInputs := rfl
@[simp] theorem State.memWrite16_ackInputs (s : State) (a v : Word) : (s.memWrite16 a v).ackInputs = s.ackInputs := rfl
@[simp] theorem State.memWrite16_params (s : State) (a v : Word) : (s.memWrite16 a v).params = s.params := rfl
@[simp] theorem State.memWrite16_portDraws (s : State) (a v : Word) : (s.memWrite16 a v).portDraws = s.portDraws := rfl
@[simp] theorem State.memWrite16_ackDraws (s : State) (a v : Word) : (s.memWrite16 a v).ackDraws = s.ackDraws := rfl
@[simp] theorem State.memWrite16_qCur (s : State) (a v : Word) : (s.memWrite16 a v).qCur = s.qCur := rfl

/-! ### push16 -/

@[simp] theorem State.push16_a (s : State) (v : Word) : (s.push16 v).a = s.a := rfl
@[simp] theorem State.push16_f (s : State) (v : Word) : (s.push16 v).f = s.f := rfl
@[simp] theorem State.push16_b (s : State) (v : Word) : (s.push16 v).b = s.b := rfl
@[simp] theorem State.push16_c (s : State) (v : Word) : (s.push16 v).c = s.c := rfl
@[simp] theorem State.push16_d (s : State) (v : Word) : (s.push16 v).d = s.d := rfl
@[simp] theorem State.push16_e (s : State) (v : Word) : (s.push16 v).e = s.e := rfl
@[simp] theorem State.push16_h (s : State) (v : Word) : (s.push16 v).h = s.h := rfl
@[simp] theorem State.push16_l (s : State) (v : Word) : (s.push16 v).l = s.l := rfl
@[simp] theorem State.push16_altA (s : State) (v : Word) : (s.push16 v).altA = s.altA := rfl
@[simp] theorem State.push16_altF (s : State) (v : Word) : (s.push16 v).altF = s.altF := rfl
@[simp] theorem State.push16_altB (s : State) (v : Word) : (s.push16 v).altB = s.altB := rfl
@[simp] theorem State.push16_altC (s : State) (v : Word) : (s.push16 v).altC = s.altC := rfl
@[simp] theorem State.push16_altD (s : State) (v : Word) : (s.push16 v).altD = s.altD := rfl
@[simp] theorem State.push16_altE (s : State) (v : Word) : (s.push16 v).altE = s.altE := rfl
@[simp] theorem State.push16_altH (s : State) (v : Word) : (s.push16 v).altH = s.altH := rfl
@[simp] theorem State.push16_altL (s : State) (v : Word) : (s.push16 v).altL = s.altL := rfl
@[simp] theorem State.push16_ix (s : State) (v : Word) : (s.push16 v).ix = s.ix := rfl
@[simp] theorem State.push16_iy (s : State) (v : Word) : (s.push16 v).iy = s.iy := rfl
@[simp] theorem State.push16_sp (s : State) (v : Word) : (s.push16 v).sp = s.sp - 1#16 - 1#16 := rfl
@[simp] theorem State.push16_pc (s : State) (v : Word) : (s.push16 v).pc = s.pc := rfl
@[simp] theorem State.push16_i (s : State) (v : Word) : (s.push16 v).i = s.i := rfl
@[simp] theorem State.push16_r7 (s : State) (v : Word) : (s.push16 v).r7 = s.r7 := rfl
@[simp] theorem State.push16_rhi (s : State) (v : Word) : (s.push16 v).rhi = s.rhi := rfl
@[simp] theorem State.push16_memptr (s : State) (v : Word) : (s.push16 v).memptr = s.memptr := rfl
@[simp] theorem State.push16_qLast (s : State) (v : Word) : (s.push16 v).qLast = s.qLast := rfl
@[simp] theorem State.push16_iff1 (s : State) (v : Word) : (s.push16 v).iff1 = s.iff1 := rfl
@[simp] theorem State.push16_iff2 (s : State) (v : Word) : (s.push16 v).iff2 = s.iff2 := rfl
@[simp] theorem State.push16_im (s : State) (v : Word) : (s.push16 v).im = s.im := rfl
@[simp] theorem State.push16_halted (s : State) (v : Word) : (s.push16 v).halted = s.halted := rfl
@[simp] theorem State.push16_pendingEI (s : State) (v : Word) : (s.push16 v).pendingEI = s.pendingEI := rfl
@[simp] theorem State.push16_intLine (s : State) (v : Word) : (s.push16 v).intLine = s.intLine := rfl
@[simp] theorem State.push16_nmiPending (s : State) (v : Word) : (s.push16 v).nmiPending = s.nmiPending := rfl
@[simp] theorem State.push16_pfx (s : State) (v : Word) : (s.push16 v).pfx = s.pfx := rfl
@[simp] theorem State.push16_pinResetReq (s : State) (v : Word) : (s.push16 v).pinResetReq = s.pinResetReq := rfl
@[simp] theorem State.push16_bp (s : State) (v : Word) : (s.push16 v).bp = s.bp := rfl
@[simp] theorem State.push16_traceEnabled (s : State) (v : Word) : (s.push16 v).traceEnabled = s.traceEnabled := rfl
@[simp] theorem State.push16_mem (s : State) (v : Word) : (s.push16 v).mem =
    (s.mem.write (s.sp - 1#16) (hi8 v)).write (s.sp - 1#16 - 1#16) (lo8 v) := rfl
@[simp] theorem State.push16_bpHook (s : State) (v : Word) : (s.push16 v).bpHook = s.bpHook := rfl
@[simp] theorem State.push16_history (s : State) (v : Word) : (s.push16 v).history =
    .write (s.sp - 1#16 - 1#16) (lo8 v) :: .write (s.sp - 1#16) (hi8 v) :: s.history := rfl
@[simp] theorem State.push16_portInputs (s : State) (v : Word) : (s.push16 v).portInputs = s.portInputs := rfl
@[simp] theorem State.push16_ackInputs (s : State) (v : Word) : (s.push16 v).ackInputs = s.ackInputs := rfl
@[simp] theorem State.push16_params (s : State) (v : Word) : (s.push16 v).params = s.params := rfl
@[simp] theorem State.push16_portDraws (s : State) (v : Word) : (s.push16 v).portDraws = s.portDraws := rfl
@[simp] theorem State.push16_ackDraws (s : State) (v : Word) : (s.push16 v).ackDraws = s.ackDraws := rfl
@[simp] theorem State.push16_qCur (s : State) (v : Word) : (s.push16 v).qCur = s.qCur := rfl

/-! ### pop16 -/

@[simp] theorem State.pop16_a (s : State) : s.pop16.2.a = s.a := rfl
@[simp] theorem State.pop16_f (s : State) : s.pop16.2.f = s.f := rfl
@[simp] theorem State.pop16_b (s : State) : s.pop16.2.b = s.b := rfl
@[simp] theorem State.pop16_c (s : State) : s.pop16.2.c = s.c := rfl
@[simp] theorem State.pop16_d (s : State) : s.pop16.2.d = s.d := rfl
@[simp] theorem State.pop16_e (s : State) : s.pop16.2.e = s.e := rfl
@[simp] theorem State.pop16_h (s : State) : s.pop16.2.h = s.h := rfl
@[simp] theorem State.pop16_l (s : State) : s.pop16.2.l = s.l := rfl
@[simp] theorem State.pop16_altA (s : State) : s.pop16.2.altA = s.altA := rfl
@[simp] theorem State.pop16_altF (s : State) : s.pop16.2.altF = s.altF := rfl
@[simp] theorem State.pop16_altB (s : State) : s.pop16.2.altB = s.altB := rfl
@[simp] theorem State.pop16_altC (s : State) : s.pop16.2.altC = s.altC := rfl
@[simp] theorem State.pop16_altD (s : State) : s.pop16.2.altD = s.altD := rfl
@[simp] theorem State.pop16_altE (s : State) : s.pop16.2.altE = s.altE := rfl
@[simp] theorem State.pop16_altH (s : State) : s.pop16.2.altH = s.altH := rfl
@[simp] theorem State.pop16_altL (s : State) : s.pop16.2.altL = s.altL := rfl
@[simp] theorem State.pop16_ix (s : State) : s.pop16.2.ix = s.ix := rfl
@[simp] theorem State.pop16_iy (s : State) : s.pop16.2.iy = s.iy := rfl
@[simp] theorem State.pop16_sp (s : State) : s.pop16.2.sp = s.sp + 1#16 + 1#16 := rfl
@[simp] theorem State.pop16_pc (s : State) : s.pop16.2.pc = s.pc := rfl
@[simp] theorem State.pop16_i (s : State) : s.pop16.2.i = s.i := rfl
@[simp] theorem State.pop16_r7 (s : State) : s.pop16.2.r7 = s.r7 := rfl
@[simp] theorem State.pop16_rhi (s : State) : s.pop16.2.rhi = s.rhi := rfl
@[simp] theorem State.pop16_memptr (s : State) : s.pop16.2.memptr = s.memptr := rfl
@[simp] theorem State.pop16_qLast (s : State) : s.pop16.2.qLast = s.qLast := rfl
@[simp] theorem State.pop16_iff1 (s : State) : s.pop16.2.iff1 = s.iff1 := rfl
@[simp] theorem State.pop16_iff2 (s : State) : s.pop16.2.iff2 = s.iff2 := rfl
@[simp] theorem State.pop16_im (s : State) : s.pop16.2.im = s.im := rfl
@[simp] theorem State.pop16_halted (s : State) : s.pop16.2.halted = s.halted := rfl
@[simp] theorem State.pop16_pendingEI (s : State) : s.pop16.2.pendingEI = s.pendingEI := rfl
@[simp] theorem State.pop16_intLine (s : State) : s.pop16.2.intLine = s.intLine := rfl
@[simp] theorem State.pop16_nmiPending (s : State) : s.pop16.2.nmiPending = s.nmiPending := rfl
@[simp] theorem State.pop16_pfx (s : State) : s.pop16.2.pfx = s.pfx := rfl
@[simp] theorem State.pop16_pinResetReq (s : State) : s.pop16.2.pinResetReq = s.pinResetReq := rfl
@[simp] theorem State.pop16_bp (s : State) : s.pop16.2.bp = s.bp := rfl
@[simp] theorem State.pop16_traceEnabled (s : State) : s.pop16.2.traceEnabled = s.traceEnabled := rfl
@[simp] theorem State.pop16_mem (s : State) : s.pop16.2.mem = s.mem := rfl
@[simp] theorem State.pop16_bpHook (s : State) : s.pop16.2.bpHook = s.bpHook := rfl
@[simp] theorem State.pop16_history (s : State) : s.pop16.2.history =
    .read (s.sp + 1#16) (s.peek (s.sp + 1#16)) :: .read s.sp (s.peek s.sp) :: s.history := rfl
@[simp] theorem State.pop16_portInputs (s : State) : s.pop16.2.portInputs = s.portInputs := rfl
@[simp] theorem State.pop16_ackInputs (s : State) : s.pop16.2.ackInputs = s.ackInputs := rfl
@[simp] theorem State.pop16_params (s : State) : s.pop16.2.params = s.params := rfl
@[simp] theorem State.pop16_portDraws (s : State) : s.pop16.2.portDraws = s.portDraws := rfl
@[simp] theorem State.pop16_ackDraws (s : State) : s.pop16.2.ackDraws = s.ackDraws := rfl
@[simp] theorem State.pop16_qCur (s : State) : s.pop16.2.qCur = s.qCur := rfl

/-! ### readAtHl -/

@[simp] theorem State.readAtHl_a (s : State) : s.readAtHl.2.a = s.a := rfl
@[simp] theorem State.readAtHl_f (s : State) : s.readAtHl.2.f = s.f := rfl
@[simp] theorem State.readAtHl_b (s : State) : s.readAtHl.2.b = s.b := rfl
@[simp] theorem State.readAtHl_c (s : State) : s.readAtHl.2.c = s.c := rfl
@[simp] theorem State.readAtHl_d (s : State) : s.readAtHl.2.d = s.d := rfl
@[simp] theorem State.readAtHl_e (s : State) : s.readAtHl.2.e = s.e := rfl
@[simp] theorem State.readAtHl_h (s : State) : s.readAtHl.2.h = s.h := rfl
@[simp] theorem State.readAtHl_l (s : State) : s.readAtHl.2.l = s.l := rfl
@[simp] theorem State.readAtHl_altA (s : State) : s.readAtHl.2.altA = s.altA := rfl
@[simp] theorem State.readAtHl_altF (s : State) : s.readAtHl.2.altF = s.altF := rfl
@[simp] theorem State.readAtHl_altB (s : State) : s.readAtHl.2.altB = s.altB := rfl
@[simp] theorem State.readAtHl_altC (s : State) : s.readAtHl.2.altC = s.altC := rfl
@[simp] theorem State.readAtHl_altD (s : State) : s.readAtHl.2.altD = s.altD := rfl
@[simp] theorem State.readAtHl_altE (s : State) : s.readAtHl.2.altE = s.altE := rfl
@[simp] theorem State.readAtHl_altH (s : State) : s.readAtHl.2.altH = s.altH := rfl
@[simp] theorem State.readAtHl_altL (s : State) : s.readAtHl.2.altL = s.altL := rfl
@[simp] theorem State.readAtHl_ix (s : State) : s.readAtHl.2.ix = s.ix := rfl
@[simp] theorem State.readAtHl_iy (s : State) : s.readAtHl.2.iy = s.iy := rfl
@[simp] theorem State.readAtHl_sp (s : State) : s.readAtHl.2.sp = s.sp := rfl
@[simp] theorem State.readAtHl_pc (s : State) : s.readAtHl.2.pc = s.pc := rfl
@[simp] theorem State.readAtHl_i (s : State) : s.readAtHl.2.i = s.i := rfl
@[simp] theorem State.readAtHl_r7 (s : State) : s.readAtHl.2.r7 = s.r7 := rfl
@[simp] theorem State.readAtHl_rhi (s : State) : s.readAtHl.2.rhi = s.rhi := rfl
@[simp] theorem State.readAtHl_memptr (s : State) : s.readAtHl.2.memptr = s.memptr := rfl
@[simp] theorem State.readAtHl_qLast (s : State) : s.readAtHl.2.qLast = s.qLast := rfl
@[simp] theorem State.readAtHl_iff1 (s : State) : s.readAtHl.2.iff1 = s.iff1 := rfl
@[simp] theorem State.readAtHl_iff2 (s : State) : s.readAtHl.2.iff2 = s.iff2 := rfl
@[simp] theorem State.readAtHl_im (s : State) : s.readAtHl.2.im = s.im := rfl
@[simp] theorem State.readAtHl_halted (s : State) : s.readAtHl.2.halted = s.halted := rfl
@[simp] theorem State.readAtHl_pendingEI (s : State) : s.readAtHl.2.pendingEI = s.pendingEI := rfl
@[simp] theorem State.readAtHl_intLine (s : State) : s.readAtHl.2.intLine = s.intLine := rfl
@[simp] theorem State.readAtHl_nmiPending (s : State) : s.readAtHl.2.nmiPending = s.nmiPending := rfl
@[simp] theorem State.readAtHl_pfx (s : State) : s.readAtHl.2.pfx = s.pfx := rfl
@[simp] theorem State.readAtHl_pinResetReq (s : State) : s.readAtHl.2.pinResetReq = s.pinResetReq := rfl
@[simp] theorem State.readAtHl_bp (s : State) : s.readAtHl.2.bp = s.bp := rfl
@[simp] theorem State.readAtHl_traceEnabled (s : State) : s.readAtHl.2.traceEnabled = s.traceEnabled := rfl
@[simp] theorem State.readAtHl_mem (s : State) : s.readAtHl.2.mem = s.mem := rfl
@[simp] theorem State.readAtHl_bpHook (s : State) : s.readAtHl.2.bpHook = s.bpHook := rfl
@[simp] theorem State.readAtHl_history (s : State) : s.readAtHl.2.history = .read s.hl (s.peek s.hl) :: s.history := rfl
@[simp] theorem State.readAtHl_portInputs (s : State) : s.readAtHl.2.portInputs = s.portInputs := rfl
@[simp] theorem State.readAtHl_ackInputs (s : State) : s.readAtHl.2.ackInputs = s.ackInputs := rfl
@[simp] theorem State.readAtHl_params (s : State) : s.readAtHl.2.params = s.params := rfl
@[simp] theorem State.readAtHl_portDraws (s : State) : s.readAtHl.2.portDraws = s.portDraws := rfl
@[simp] theorem State.readAtHl_ackDraws (s : State) : s.readAtHl.2.ackDraws = s.ackDraws := rfl
@[simp] theorem State.readAtHl_qCur (s : State) : s.readAtHl.2.qCur = s.qCur := rfl

/-! ### readAtXyD -/

@[simp] theorem State.readAtXyD_a (s : State) (xy : IndexReg) (d : Byte) : (s.readAtXyD xy d).2.a = s.a := rfl
@[simp] theorem State.readAtXyD_f (s : State) (xy : IndexReg) (d : Byte) : (s.readAtXyD xy d).2.f = s.f := rfl
@[simp] theorem State.readAtXyD_b (s : State) (xy : IndexReg) (d : Byte) : (s.readAtXyD xy d).2.b = s.b := rfl
@[simp] theorem State.readAtXyD_c (s : State) (xy : IndexReg) (d : Byte) : (s.readAtXyD xy d).2.c = s.c := rfl
@[simp] theorem State.readAtXyD_d (s : State) (xy : IndexReg) (d : Byte) : (s.readAtXyD xy d).2.d = s.d := rfl
@[simp] theorem State.readAtXyD_e (s : State) (xy : IndexReg) (d : Byte) : (s.readAtXyD xy d).2.e = s.e := rfl
@[simp] theorem State.readAtXyD_h (s : State) (xy : IndexReg) (d : Byte) : (s.readAtXyD xy d).2.h = s.h := rfl
@[simp] theorem State.readAtXyD_l (s : State) (xy : IndexReg) (d : Byte) : (s.readAtXyD xy d).2.l = s.l := rfl
@[simp] theorem State.readAtXyD_altA (s : State) (xy : IndexReg) (d : Byte) : (s.readAtXyD xy d).2.altA = s.altA := rfl
@[simp] theorem State.readAtXyD_altF (s : State) (xy : IndexReg) (d : Byte) : (s.readAtXyD xy d).2.altF = s.altF := rfl
@[simp] theorem State.readAtXyD_altB (s : State) (xy : IndexReg) (d : Byte) : (s.readAtXyD xy d).2.altB = s.altB := rfl
@[simp] theorem State.readAtXyD_altC (s : State) (xy : IndexReg) (d : Byte) : (s.readAtXyD xy d).2.altC = s.altC := rfl
@[simp] theorem State.readAtXyD_altD (s : State) (xy : IndexReg) (d : Byte) : (s.readAtXyD xy d).2.altD = s.altD := rfl
@[simp] theorem State.readAtXyD_altE (s : State) (xy : IndexReg) (d : Byte) : (s.readAtXyD xy d).2.altE = s.altE := rfl
@[simp] theorem State.readAtXyD_altH (s : State) (xy : IndexReg) (d : Byte) : (s.readAtXyD xy d).2.altH = s.altH := rfl
@[simp] theorem State.readAtXyD_altL (s : State) (xy : IndexReg) (d : Byte) : (s.readAtXyD xy d).2.altL = s.altL := rfl
@[simp] theorem State.readAtXyD_ix (s : State) (xy : IndexReg) (d : Byte) : (s.readAtXyD xy d).2.ix = s.ix := rfl
@[simp] theorem State.readAtXyD_iy (s : State) (xy : IndexReg) (d : Byte) : (s.readAtXyD xy d).2.iy = s.iy := rfl
@[simp] theorem State.readAtXyD_sp (s : State) (xy : IndexReg) (d : Byte) : (s.readAtXyD xy d).2.sp = s.sp := rfl
@[simp] theorem State.readAtXyD_pc (s : State) (xy : IndexReg) (d : Byte) : (s.readAtXyD xy d).2.pc = s.pc := rfl
@[simp] theorem State.readAtXyD_i (s : State) (xy : IndexReg) (d : Byte) : (s.readAtXyD xy d).2.i = s.i := rfl
@[simp] theorem State.readAtXyD_r7 (s : State) (xy : IndexReg) (d : Byte) : (s.readAtXyD xy d).2.r7 = s.r7 := rfl
@[simp] theorem State.readAtXyD_rhi (s : State) (xy : IndexReg) (d : Byte) : (s.readAtXyD xy d).2.rhi = s.rhi := rfl
@[simp] theorem State.readAtXyD_memptr (s : State) (xy : IndexReg) (d : Byte) : (s.readAtXyD xy d).2.memptr =
    s.ea xy d := rfl
@[simp] theorem State.readAtXyD_qLast (s : State) (xy : IndexReg) (d : Byte) : (s.readAtXyD xy d).2.qLast = s.qLast := rfl
@[simp] theorem State.readAtXyD_iff1 (s : State) (xy : IndexReg) (d : Byte) : (s.readAtXyD xy d).2.iff1 = s.iff1 := rfl
@[simp] theorem State.readAtXyD_iff2 (s : State) (xy : IndexReg) (d : Byte) : (s.readAtXyD xy d).2.iff2 = s.iff2 := rfl
@[simp] theorem State.readAtXyD_im (s : State) (xy : IndexReg) (d : Byte) : (s.readAtXyD xy d).2.im = s.im := rfl
@[simp] theorem State.readAtXyD_halted (s : State) (xy : IndexReg) (d : Byte) : (s.readAtXyD xy d).2.halted =
    s.halted := rfl
@[simp] theorem State.readAtXyD_pendingEI (s : State) (xy : IndexReg) (d : Byte) : (s.readAtXyD xy d).2.pendingEI =
    s.pendingEI := rfl
@[simp] theorem State.readAtXyD_intLine (s : State) (xy : IndexReg) (d : Byte) : (s.readAtXyD xy d).2.intLine =
    s.intLine := rfl
@[simp] theorem State.readAtXyD_nmiPending (s : State) (xy : IndexReg) (d : Byte) : (s.readAtXyD xy d).2.nmiPending =
    s.nmiPending := rfl
@[simp] theorem State.readAtXyD_pfx (s : State) (xy : IndexReg) (d : Byte) : (s.readAtXyD xy d).2.pfx = s.pfx := rfl
@[simp] theorem State.readAtXyD_pinResetReq (s : State) (xy : IndexReg) (d : Byte) : (s.readAtXyD xy d).2.pinResetReq =
    s.pinResetReq := rfl
@[simp] theorem State.readAtXyD_bp (s : State) (xy : IndexReg) (d : Byte) : (s.readAtXyD xy d).2.bp = s.bp := rfl
@[simp] theorem State.readAtXyD_traceEnabled (s : State) (xy : IndexReg) (d : Byte) : (s.readAtXyD xy d).2.traceEnabled =
    s.traceEnabled := rfl
@[simp] theorem State.readAtXyD_mem (s : State) (xy : IndexReg) (d : Byte) : (s.readAtXyD xy d).2.mem = s.mem := rfl
@[simp] theorem State.readAtXyD_bpHook (s : State) (xy : IndexReg) (d : Byte) : (s.readAtXyD xy d).2.bpHook =
    s.bpHook := rfl
@[simp] theorem State.readAtXyD_history (s : State) (xy : IndexReg) (d : Byte) : (s.readAtXyD xy d).2.history =
    .read (s.ea xy d) (s.peek (s.ea xy d)) :: s.history := rfl
@[simp] theorem State.readAtXyD_portInputs (s : State) (xy : IndexReg) (d : Byte) : (s.readAtXyD xy d).2.portInputs =
    s.portInputs := rfl
@[simp] theorem State.readAtXyD_ackInputs (s : State) (xy : IndexReg) (d : Byte) : (s.readAtXyD xy d).2.ackInputs =
    s.ackInputs := rfl
@[simp] theorem State.readAtXyD_params (s : State) (xy : IndexReg) (d : Byte) : (s.readAtXyD xy d).2.params =
    s.params := rfl
@[simp] theorem State.readAtXyD_portDraws (s : State) (xy : IndexReg) (d : Byte) : (s.readAtXyD xy d).2.portDraws =
    s.portDraws := rfl
@[simp] theorem State.readAtXyD_ackDraws (s : State) (xy : IndexReg) (d : Byte) : (s.readAtXyD xy d).2.ackDraws =
    s.ackDraws := rfl
@[simp] theorem State.readAtXyD_qCur (s : State) (xy : IndexReg) (d : Byte) : (s.readAtXyD xy d).2.qCur = s.qCur := rfl

/-! ### portWrite -/

@[simp] theorem State.portWrite_a (s : State) (p : Word) (v : Byte) : (s.portWrite p v).a = s.a := rfl
@[simp] theorem State.portWrite_f (s : State) (p : Word) (v : Byte) : (s.portWrite p v).f = s.f := rfl
@[simp] theorem State.portWrite_b (s : State) (p : Word) (v : Byte) : (s.portWrite p v).b = s.b := rfl
@[simp] theorem State.portWrite_c (s : State) (p : Word) (v : Byte) : (s.portWrite p v).c = s.c := rfl
@[simp] theorem State.portWrite_d (s : State) (p : Word) (v : Byte) : (s.portWrite p v).d = s.d := rfl
@[simp] theorem State.portWrite_e (s : State) (p : Word) (v : Byte) : (s.portWrite p v).e = s.e := rfl
@[simp] theorem State.portWrite_h (s : State) (p : Word) (v : Byte) : (s.portWrite p v).h = s.h := rfl
@[simp] theorem State.portWrite_l (s : State) (p : Word) (v : Byte) : (s.portWrite p v).l = s.l := rfl
@[simp] theorem State.portWrite_altA (s : State) (p : Word) (v : Byte) : (s.portWrite p v).altA = s.altA := rfl
@[simp] theorem State.portWrite_altF (s : State) (p : Word) (v : Byte) : (s.portWrite p v).altF = s.altF := rfl
@[simp] theorem State.portWrite_altB (s : State) (p : Word) (v : Byte) : (s.portWrite p v).altB = s.altB := rfl
@[simp] theorem State.portWrite_altC (s : State) (p : Word) (v : Byte) : (s.portWrite p v).altC = s.altC := rfl
@[simp] theorem State.portWrite_altD (s : State) (p : Word) (v : Byte) : (s.portWrite p v).altD = s.altD := rfl
@[simp] theorem State.portWrite_altE (s : State) (p : Word) (v : Byte) : (s.portWrite p v).altE = s.altE := rfl
@[simp] theorem State.portWrite_altH (s : State) (p : Word) (v : Byte) : (s.portWrite p v).altH = s.altH := rfl
@[simp] theorem State.portWrite_altL (s : State) (p : Word) (v : Byte) : (s.portWrite p v).altL = s.altL := rfl
@[simp] theorem State.portWrite_ix (s : State) (p : Word) (v : Byte) : (s.portWrite p v).ix = s.ix := rfl
@[simp] theorem State.portWrite_iy (s : State) (p : Word) (v : Byte) : (s.portWrite p v).iy = s.iy := rfl
@[simp] theorem State.portWrite_sp (s : State) (p : Word) (v : Byte) : (s.portWrite p v).sp = s.sp := rfl
@[simp] theorem State.portWrite_pc (s : State) (p : Word) (v : Byte) : (s.portWrite p v).pc = s.pc := rfl
@[simp] theorem State.portWrite_i (s : State) (p : Word) (v : Byte) : (s.portWrite p v).i = s.i := rfl
@[simp] theorem State.portWrite_r7 (s : State) (p : Word) (v : Byte) : (s.portWrite p v).r7 = s.r7 := rfl
@[simp] theorem State.portWrite_rhi (s : State) (p : Word) (v : Byte) : (s.portWrite p v).rhi = s.rhi := rfl
@[simp] theorem State.portWrite_memptr (s : State) (p : Word) (v : Byte) : (s.portWrite p v).memptr = s.memptr := rfl
@[simp] theorem State.portWrite_qLast (s : State) (p : Word) (v : Byte) : (s.portWrite p v).qLast = s.qLast := rfl
@[simp] theorem State.portWrite_iff1 (s : State) (p : Word) (v : Byte) : (s.portWrite p v).iff1 = s.iff1 := rfl
@[simp] theorem State.portWrite_iff2 (s : State) (p : Word) (v : Byte) : (s.portWrite p v).iff2 = s.iff2 := rfl
@[simp] theorem State.portWrite_im (s : State) (p : Word) (v : Byte) : (s.portWrite p v).im = s.im := rfl
@[simp] theorem State.portWrite_halted (s : State) (p : Word) (v : Byte) : (s.portWrite p v).halted = s.halted := rfl
@[simp] theorem State.portWrite_pendingEI (s : State) (p : Word) (v : Byte) : (s.portWrite p v).pendingEI =
    s.pendingEI := rfl
@[simp] theorem State.portWrite_intLine (s : State) (p : Word) (v : Byte) : (s.portWrite p v).intLine = s.intLine := rfl
@[simp] theorem State.portWrite_nmiPending (s : State) (p : Word) (v : Byte) : (s.portWrite p v).nmiPending =
    s.nmiPending := rfl
@[simp] theorem State.portWrite_pfx (s : State) (p : Word) (v : Byte) : (s.portWrite p v).pfx = s.pfx := rfl
@[simp] theorem State.portWrite_pinResetReq (s : State) (p : Word) (v : Byte) : (s.portWrite p v).pinResetReq =
    s.pinResetReq := rfl
@[simp] theorem State.portWrite_bp (s : State) (p : Word) (v : Byte) : (s.portWrite p v).bp = s.bp := rfl
@[simp] theorem State.portWrite_traceEnabled (s : State) (p : Word) (v : Byte) : (s.portWrite p v).traceEnabled =
    s.traceEnabled := rfl
@[simp] theorem State.portWrite_mem (s : State) (p : Word) (v : Byte) : (s.portWrite p v).mem = s.mem := rfl
@[simp] theorem State.portWrite_bpHook (s : State) (p : Word) (v : Byte) : (s.portWrite p v).bpHook = s.bpHook := rfl
@[simp] theorem State.portWrite_history (s : State) (p : Word) (v : Byte) : (s.portWrite p v).history =
    .portWrite p v :: s.history := rfl
@[simp] theorem State.portWrite_portInputs (s : State) (p : Word) (v : Byte) : (s.portWrite p v).portInputs =
    s.portInputs := rfl
@[simp] theorem State.portWrite_ackInputs (s : State) (p : Word) (v : Byte) : (s.portWrite p v).ackInputs =
    s.ackInputs := rfl
@[simp] theorem State.portWrite_params (s : State) (p : Word) (v : Byte) : (s.portWrite p v).params = s.params := rfl
@[simp] theorem State.portWrite_portDraws (s : State) (p : Word) (v : Byte) : (s.portWrite p v).portDraws =
    s.portDraws := rfl
@[simp] theorem State.portWrite_ackDraws (s : State) (p : Word) (v : Byte) : (s.portWrite p v).ackDraws = s.ackDraws := rfl
@[simp] theorem State.portWrite_qCur (s : State) (p : Word) (v : Byte) : (s.portWrite p v).qCur = s.qCur := rfl

/-! ### portRead: everything but the environment and the history -/

@[simp] theorem State.portRead_a (s : State) (p : Word) : (s.portRead p).2.a = s.a := by unfold State.portRead; split <;> rfl
@[simp] theorem State.portRead_f (s : State) (p : Word) : (s.portRead p).2.f = s.f := by unfold State.portRead; split <;> rfl
@[simp] theorem State.portRead_b (s : State) (p : Word) : (s.portRead p).2.b = s.b := by unfold State.portRead; split <;> rfl
@[simp] theorem State.portRead_c (s : State) (p : Word) : (s.portRead p).2.c = s.c := by unfold State.portRead; split <;> rfl
@[simp] theorem State.portRead_d (s : State) (p : Word) : (s.portRead p).2.d = s.d := by unfold State.portRead; split <;> rfl
@[simp] theorem State.portRead_e (s : State) (p : Word) : (s.portRead p).2.e = s.e := by unfold State.portRead; split <;> rfl
@[simp] theorem State.portRead_h (s : State) (p : Word) : (s.portRead p).2.h = s.h := by unfold State.portRead; split <;> rfl
@[simp] theorem State.portRead_l (s : State) (p : Word) : (s.portRead p).2.l = s.l := by unfold State.portRead; split <;> rfl
@[simp] theorem State.portRead_altA (s : State) (p : Word) : (s.portRead p).2.altA = s.altA := by unfold State.portRead; split <;> rfl
@[simp] theorem State.portRead_altF (s : State) (p : Word) : (s.portRead p).2.altF = s.altF := by unfold State.portRead; split <;> rfl
@[simp] theorem State.portRead_altB (s : State) (p : Word) : (s.portRead p).2.altB = s.altB := by unfold State.portRead; split <;> rfl
@[simp] theorem State.portRead_altC (s : State) (p : Word) : (s.portRead p).2.altC = s.altC := by unfold State.portRead; split <;> rfl
@[simp] theorem State.portRead_altD (s : State) (p : Word) : (s.portRead p).2.altD = s.altD := by unfold State.portRead; split <;> rfl
@[simp] theorem State.portRead_altE (s : State) (p : Word) : (s.portRead p).2.altE = s.altE := by unfold State.portRead; split <;> rfl
@[simp] theorem State.portRead_altH (s : State) (p : Word) : (s.portRead p).2.altH = s.altH := by unfold State.portRead; split <;> rfl
@[simp] theorem State.portRead_altL (s : State) (p : Word) : (s.portRead p).2.altL = s.altL := by unfold State.portRead; split <;> rfl
@[simp] theorem State.portRead_ix (s : State) (p : Word) : (s.portRead p).2.ix = s.ix := by unfold State.portRead; split <;> rfl
@[simp] theorem State.portRead_iy (s : State) (p : Word) : (s.portRead p).2.iy = s.iy := by unfold State.portRead; split <;> rfl
@[simp] theorem State.portRead_sp (s : State) (p : Word) : (s.portRead p).2.sp = s.sp := by unfold State.portRead; split <;> rfl
@[simp] theorem State.portRead_pc (s : State) (p : Word) : (s.portRead p).2.pc = s.pc := by unfold State.portRead; split <;> rfl
@[simp] theorem State.portRead_i (s : State) (p : Word) : (s.portRead p).2.i = s.i := by unfold State.portRead; split <;> rfl
@[simp] theorem State.portRead_r7 (s : State) (p : Word) : (s.portRead p).2.r7 = s.r7 := by unfold State.portRead; split <;> rfl
@[simp] theorem State.portRead_rhi (s : State) (p : Word) : (s.portRead p).2.rhi = s.rhi := by unfold State.portRead; split <;> rfl
@[simp] theorem State.portRead_memptr (s : State) (p : Word) : (s.portRead p).2.memptr = s.memptr := by unfold State.portRead; split <;> rfl
@[simp] theorem State.portRead_qLast (s : State) (p : Word) : (s.portRead p).2.qLast = s.qLast := by unfold State.portRead; split <;> rfl
@[simp] theorem State.portRead_iff1 (s : State) (p : Word) : (s.portRead p).2.iff1 = s.iff1 := by unfold State.portRead; split <;> rfl
@[simp] theorem State.portRead_iff2 (s : State) (p : Word) : (s.portRead p).2.iff2 = s.iff2 := by unfold State.portRead; split <;> rfl
@[simp] theorem State.portRead_im (s : State) (p : Word) : (s.portRead p).2.im = s.im := by unfold State.portRead; split <;> rfl
@[simp] theorem State.portRead_halted (s : State) (p : Word) : (s.portRead p).2.halted = s.halted := by unfold State.portRead; split <;> rfl
@[simp] theorem State.portRead_pendingEI (s : State) (p : Word) : (s.portRead p).2.pendingEI = s.pendingEI := by unfold State.portRead; split <;> rfl
@[simp] theorem State.portRead_intLine (s : State) (p : Word) : (s.portRead p).2.intLine = s.intLine := by unfold State.portRead; split <;> rfl
@[simp] theorem State.portRead_nmiPending (s : State) (p : Word) : (s.portRead p).2.nmiPending = s.nmiPending := by unfold State.portRead; split <;> rfl
@[simp] theorem State.portRead_pfx (s : State) (p : Word) : (s.portRead p).2.pfx = s.pfx := by unfold State.portRead; split <;> rfl
@[simp] theorem State.portRead_pinResetReq (s : State) (p : Word) : (s.portRead p).2.pinResetReq = s.pinResetReq := by unfold State.portRead; split <;> rfl
@[simp] theorem State.portRead_bp (s : State) (p : Word) : (s.portRead p).2.bp = s.bp := by unfold State.portRead; split <;> rfl
@[simp] theorem State.portRead_traceEnabled (s : State) (p : Word) : (s.portRead p).2.traceEnabled = s.traceEnabled := by unfold State.portRead; split <;> rfl
@[simp] theorem State.portRead_mem (s : State) (p : Word) : (s.portRead p).2.mem = s.mem := by unfold State.portRead; split <;> rfl
@[simp] theorem State.portRead_bpHook (s : State) (p : Word) : (s.portRead p).2.bpHook = s.bpHook := by unfold State.portRead; split <;> rfl
@[simp] theorem State.portRead_ackInputs (s : State) (p : Word) : (s.portRead p).2.ackInputs = s.ackInputs := by unfold State.portRead; split <;> rfl
@[simp] theorem State.portRead_params (s : State) (p : Word) : (s.portRead p).2.params = s.params := by unfold State.portRead; split <;> rfl
@[simp] theorem State.portRead_ackDraws (s : State) (p : Word) : (s.portRead p).2.ackDraws = s.ackDraws := by unfold State.portRead; split <;> rfl
@[simp] theorem State.portRead_qCur (s : State) (p : Word) : (s.portRead p).2.qCur = s.qCur := by unfold State.portRead; split <;> rfl

/-! ### repeatUnless: everything but PC, MEMPTR and F -/

@[simp] theorem State.repeatUnless_a (s : State) (done : Bool) : (s.repeatUnless done).a = s.a := by cases done <;> rfl
@[simp] theorem State.repeatUnless_b (s : State) (done : Bool) : (s.repeatUnless done).b = s.b := by cases done <;> rfl
@[simp] theorem State.repeatUnless_c (s : State) (done : Bool) : (s.repeatUnless done).c = s.c := by cases done <;> rfl
@[simp] theorem State.repeatUnless_d (s : State) (done : Bool) : (s.repeatUnless done).d = s.d := by cases done <;> rfl
@[simp] theorem State.repeatUnless_e (s : State) (done : Bool) : (s.repeatUnless done).e = s.e := by cases done <;> rfl
@[simp] theorem State.repeatUnless_h (s : State) (done : Bool) : (s.repeatUnless done).h = s.h := by cases done <;> rfl
@[simp] theorem State.repeatUnless_l (s : State) (done : Bool) : (s.repeatUnless done).l = s.l := by cases done <;> rfl
@[simp] theorem State.repeatUnless_altA (s : State) (done : Bool) : (s.repeatUnless done).altA = s.altA := by cases done <;> rfl
@[simp] theorem State.repeatUnless_altF (s : State) (done : Bool) : (s.repeatUnless done).altF = s.altF := by cases done <;> rfl
@[simp] theorem State.repeatUnless_altB (s : State) (done : Bool) : (s.repeatUnless done).altB = s.altB := by cases done <;> rfl
@[simp] theorem State.repeatUnless_altC (s : State) (done : Bool) : (s.repeatUnless done).altC = s.altC := by cases done <;> rfl
@[simp] theorem State.repeatUnless_altD (s : State) (done : Bool) : (s.repeatUnless done).altD = s.altD := by cases done <;> rfl
@[simp] theorem State.repeatUnless_altE (s : State) (done : Bool) : (s.repeatUnless done).altE = s.altE := by cases done <;> rfl
@[simp] theorem State.repeatUnless_altH (s : State) (done : Bool) : (s.repeatUnless done).altH = s.altH := by cases done <;> rfl
@[simp] theorem State.repeatUnless_altL (s : State) (done : Bool) : (s.repeatUnless done).altL = s.altL := by cases done <;> rfl
@[simp] theorem State.repeatUnless_ix (s : State) (done : Bool) : (s.repeatUnless done).ix = s.ix := by cases done <;> rfl
@[simp] theorem State.repeatUnless_iy (s : State) (done : Bool) : (s.repeatUnless done).iy = s.iy := by cases done <;> rfl
@[simp] theorem State.repeatUnless_sp (s : State) (done : Bool) : (s.repeatUnless done).sp = s.sp := by cases done <;> rfl
@[simp] theorem State.repeatUnless_i (s : State) (done : Bool) : (s.repeatUnless done).i = s.i := by cases done <;> rfl
@[simp] theorem State.repeatUnless_r7 (s : State) (done : Bool) : (s.repeatUnless done).r7 = s.r7 := by cases done <;> rfl
@[simp] theorem State.repeatUnless_rhi (s : State) (done : Bool) : (s.repeatUnless done).rhi = s.rhi := by cases done <;> rfl
@[simp] theorem State.repeatUnless_qLast (s : State) (done : Bool) : (s.repeatUnless done).qLast = s.qLast := by cases done <;> rfl
@[simp] theorem State.repeatUnless_iff1 (s : State) (done : Bool) : (s.repeatUnless done).iff1 = s.iff1 := by cases done <;> rfl
@[simp] theorem State.repeatUnless_iff2 (s : State) (done : Bool) : (s.repeatUnless done).iff2 = s.iff2 := by cases done <;> rfl
@[simp] theorem State.repeatUnless_im (s : State) (done : Bool) : (s.repeatUnless done).im = s.im := by cases done <;> rfl
@[simp] theorem State.repeatUnless_halted (s : State) (done : Bool) : (s.repeatUnless done).halted = s.halted := by cases done <;> rfl
@[simp] theorem State.repeatUnless_pendingEI (s : State) (done : Bool) : (s.repeatUnless done).pendingEI = s.pendingEI := by cases done <;> rfl
@[simp] theorem State.repeatUnless_intLine (s : State) (done : Bool) : (s.repeatUnless done).intLine = s.intLine := by cases done <;> rfl
@[simp] theorem State.repeatUnless_nmiPending (s : State) (done : Bool) : (s.repeatUnless done).nmiPending = s.nmiPending := by cases done <;> rfl
@[simp] theorem State.repeatUnless_pfx (s : State) (done : Bool) : (s.repeatUnless done).pfx = s.pfx := by cases done <;> rfl
@[simp] theorem State.repeatUnless_pinResetReq (s : State) (done : Bool) : (s.repeatUnless done).pinResetReq = s.pinResetReq := by cases done <;> rfl
@[simp] theorem State.repeatUnless_bp (s : State) (done : Bool) : (s.repeatUnless done).bp = s.bp := by cases done <;> rfl
@[simp] theorem State.repeatUnless_traceEnabled (s : State) (done : Bool) : (s.repeatUnless done).traceEnabled = s.traceEnabled := by cases done <;> rfl
@[simp] theorem State.repeatUnless_mem (s : State) (done : Bool) : (s.repeatUnless done).mem = s.mem := by cases done <;> rfl
@[simp] theorem State.repeatUnless_bpHook (s : State) (done : Bool) : (s.repeatUnless done).bpHook = s.bpHook := by cases done <;> rfl
@[simp] theorem State.repeatUnless_history (s : State) (done : Bool) : (s.repeatUnless done).history = s.history := by cases done <;> rfl
@[simp] theorem State.repeatUnless_portInputs (s : State) (done : Bool) : (s.repeatUnless done).portInputs = s.portInputs := by cases done <;> rfl
@[simp] theorem State.repeatUnless_ackInputs (s : State) (done : Bool) : (s.repeatUnless done).ackInputs = s.ackInputs := by cases done <;> rfl
@[simp] theorem State.repeatUnless_params (s : State) (done : Bool) : (s.repeatUnless done).params = s.params := by cases done <;> rfl
@[simp] theorem State.repeatUnless_portDraws (s : State) (done : Bool) : (s.repeatUnless done).portDraws = s.portDraws := by cases done <;> rfl
@[simp] theorem State.repeatUnless_ackDraws (s : State) (done : Bool) : (s.repeatUnless done).ackDraws = s.ackDraws := by cases done <;> rfl
@[simp] theorem State.repeatUnless_qCur (s : State) (done : Bool) : (s.repeatUnless done).qCur = s.qCur := by cases done <;> rfl

/-! ### setReg8: everything but the seven registers -/

@[simp] theorem State.setReg8_f (s : State) (r : Reg8) (v : Byte) : (s.setReg8 r v).f = s.f := by cases r <;> rfl
@[simp] theorem State.setReg8_altA (s : State) (r : Reg8) (v : Byte) : (s.setReg8 r v).altA = s.altA := by cases r <;> rfl
@[simp] theorem State.setReg8_altF (s : State) (r : Reg8) (v : Byte) : (s.setReg8 r v).altF = s.altF := by cases r <;> rfl
@[simp] theorem State.setReg8_altB (s : State) (r : Reg8) (v : Byte) : (s.setReg8 r v).altB = s.altB := by cases r <;> rfl
@[simp] theorem State.setReg8_altC (s : State) (r : Reg8) (v : Byte) : (s.setReg8 r v).altC = s.altC := by cases r <;> rfl
@[simp] theorem State.setReg8_altD (s : State) (r : Reg8) (v : Byte) : (s.setReg8 r v).altD = s.altD := by cases r <;> rfl
@[simp] theorem State.setReg8_altE (s : State) (r : Reg8) (v : Byte) : (s.setReg8 r v).altE = s.altE := by cases r <;> rfl
@[simp] theorem State.setReg8_altH (s : State) (r : Reg8) (v : Byte) : (s.setReg8 r v).altH = s.altH := by cases r <;> rfl
@[simp] theorem State.setReg8_altL (s : State) (r : Reg8) (v : Byte) : (s.setReg8 r v).altL = s.altL := by cases r <;> rfl
@[simp] theorem State.setReg8_ix (s : State) (r : Reg8) (v : Byte) : (s.setReg8 r v).ix = s.ix := by cases r <;> rfl
@[simp] theorem State.setReg8_iy (s : State) (r : Reg8) (v : Byte) : (s.setReg8 r v).iy = s.iy := by cases r <;> rfl
@[simp] theorem State.setReg8_sp (s : State) (r : Reg8) (v : Byte) : (s.setReg8 r v).sp = s.sp := by cases r <;> rfl
@[simp] theorem State.setReg8_pc (s : State) (r : Reg8) (v : Byte) : (s.setReg8 r v).pc = s.pc := by cases r <;> rfl
@[simp] theorem State.setReg8_i (s : State) (r : Reg8) (v : Byte) : (s.setReg8 r v).i = s.i := by cases r <;> rfl
@[simp] theorem State.setReg8_r7 (s : State) (r : Reg8) (v : Byte) : (s.setReg8 r v).r7 = s.r7 := by cases r <;> rfl
@[simp] theorem State.setReg8_rhi (s : State) (r : Reg8) (v : Byte) : (s.setReg8 r v).rhi = s.rhi := by cases r <;> rfl
@[simp] theorem State.setReg8_memptr (s : State) (r : Reg8) (v : Byte) : (s.setReg8 r v).memptr = s.memptr := by cases r <;> rfl
@[simp] theorem State.setReg8_qLast (s : State) (r : Reg8) (v : Byte) : (s.setReg8 r v).qLast = s.qLast := by cases r <;> rfl
@[simp] theorem State.setReg8_iff1 (s : State) (r : Reg8) (v : Byte) : (s.setReg8 r v).iff1 = s.iff1 := by cases r <;> rfl
@[simp] theorem State.setReg8_iff2 (s : State) (r : Reg8) (v : Byte) : (s.setReg8 r v).iff2 = s.iff2 := by cases r <;> rfl
@[simp] theorem State.setReg8_im (s : State) (r : Reg8) (v : Byte) : (s.setReg8 r v).im = s.im := by cases r <;> rfl
@[simp] theorem State.setReg8_halted (s : State) (r : Reg8) (v : Byte) : (s.setReg8 r v).halted = s.halted := by cases r <;> rfl
@[simp] theorem State.setReg8_pendingEI (s : State) (r : Reg8) (v : Byte) : (s.setReg8 r v).pendingEI = s.pendingEI := by cases r <;> rfl
@[simp] theorem State.setReg8_intLine (s : State) (r : Reg8) (v : Byte) : (s.setReg8 r v).intLine = s.intLine := by cases r <;> rfl
@[simp] theorem State.setReg8_nmiPending (s : State) (r : Reg8) (v : Byte) : (s.setReg8 r v).nmiPending = s.nmiPending := by cases r <;> rfl
@[simp] theorem State.setReg8_pfx (s : State) (r : Reg8) (v : Byte) : (s.setReg8 r v).pfx = s.pfx := by cases r <;> rfl
@[simp] theorem State.setReg8_pinResetReq (s : State) (r : Reg8) (v : Byte) : (s.setReg8 r v).pinResetReq = s.pinResetReq := by cases r <;> rfl
@[simp] theorem State.setReg8_bp (s : State) (r : Reg8) (v : Byte) : (s.setReg8 r v).bp = s.bp := by cases r <;> rfl
@[simp] theorem State.setReg8_traceEnabled (s : State) (r : Reg8) (v : Byte) : (s.setReg8 r v).traceEnabled = s.traceEnabled := by cases r <;> rfl
@[simp] theorem State.setReg8_mem (s : State) (r : Reg8) (v : Byte) : (s.setReg8 r v).mem = s.mem := by cases r <;> rfl
@[simp] theorem State.setReg8_bpHook (s : State) (r : Reg8) (v : Byte) : (s.setReg8 r v).bpHook = s.bpHook := by cases r <;> rfl
@[simp] theorem State.setReg8_history (s : State) (r : Reg8) (v : Byte) : (s.setReg8 r v).history = s.history := by cases r <;> rfl
@[simp] theorem State.setReg8_portInputs (s : State) (r : Reg8) (v : Byte) : (s.setReg8 r v).portInputs = s.portInputs := by cases r <;> rfl
@[simp] theorem State.setReg8_ackInputs (s : State) (r : Reg8) (v : Byte) : (s.setReg8 r v).ackInputs = s.ackInputs := by cases r <;> rfl
@[simp] theorem State.setReg8_params (s : State) (r : Reg8) (v : Byte) : (s.setReg8 r v).params = s.params := by cases r <;> rfl
@[simp] theorem State.setReg8_portDraws (s : State) (r : Reg8) (v : Byte) : (s.setReg8 r v).portDraws = s.portDraws := by cases r <;> rfl
@[simp] theorem State.setReg8_ackDraws (s : State) (r : Reg8) (v : Byte) : (s.setReg8 r v).ackDraws = s.ackDraws := by cases r <;> rfl
@[simp] theorem State.setReg8_qCur (s : State) (r : Reg8) (v : Byte) : (s.setReg8 r v).qCur = s.qCur := by cases r <;> rfl

/-! ### setIndex: everything but IX and IY -/

@[simp] theorem State.setIndex_a (s : State) (xy : IndexReg) (v : Word) : (s.setIndex xy v).a = s.a := by cases xy <;> rfl
@[simp] theorem State.setIndex_f (s : State) (xy : IndexReg) (v : Word) : (s.setIndex xy v).f = s.f := by cases xy <;> rfl
@[simp] theorem State.setIndex_b (s : State) (xy : IndexReg) (v : Word) : (s.setIndex xy v).b = s.b := by cases xy <;> rfl
@[simp] theorem State.setIndex_c (s : State) (xy : IndexReg) (v : Word) : (s.setIndex xy v).c = s.c := by cases xy <;> rfl
@[simp] theorem State.setIndex_d (s : State) (xy : IndexReg) (v : Word) : (s.setIndex xy v).d = s.d := by cases xy <;> rfl
@[simp] theorem State.setIndex_e (s : State) (xy : IndexReg) (v : Word) : (s.setIndex xy v).e = s.e := by cases xy <;> rfl
@[simp] theorem State.setIndex_h (s : State) (xy : IndexReg) (v : Word) : (s.setIndex xy v).h = s.h := by cases xy <;> rfl
@[simp] theorem State.setIndex_l (s : State) (xy : IndexReg) (v : Word) : (s.setIndex xy v).l = s.l := by cases xy <;> rfl
@[simp] theorem State.setIndex_altA (s : State) (xy : IndexReg) (v : Word) : (s.setIndex xy v).altA = s.altA := by cases xy <;> rfl
@[simp] theorem State.setIndex_altF (s : State) (xy : IndexReg) (v : Word) : (s.setIndex xy v).altF = s.altF := by cases xy <;> rfl
@[simp] theorem State.setIndex_altB (s : State) (xy : IndexReg) (v : Word) : (s.setIndex xy v).altB = s.altB := by cases xy <;> rfl
@[simp] theorem State.setIndex_altC (s : State) (xy : IndexReg) (v : Word) : (s.setIndex xy v).altC = s.altC := by cases xy <;> rfl
@[simp] theorem State.setIndex_altD (s : State) (xy : IndexReg) (v : Word) : (s.setIndex xy v).altD = s.altD := by cases xy <;> rfl
@[simp] theorem State.setIndex_altE (s : State) (xy : IndexReg) (v : Word) : (s.setIndex xy v).altE = s.altE := by cases xy <;> rfl
@[simp] theorem State.setIndex_altH (s : State) (xy : IndexReg) (v : Word) : (s.setIndex xy v).altH = s.altH := by cases xy <;> rfl
@[simp] theorem State.setIndex_altL (s : State) (xy : IndexReg) (v : Word) : (s.setIndex xy v).altL = s.altL := by cases xy <;> rfl
@[simp] theorem State.setIndex_sp (s : State) (xy : IndexReg) (v : Word) : (s.setIndex xy v).sp = s.sp := by cases xy <;> rfl
@[simp] theorem State.setIndex_pc (s : State) (xy : IndexReg) (v : Word) : (s.setIndex xy v).pc = s.pc := by cases xy <;> rfl
@[simp] theorem State.setIndex_i (s : State) (xy : IndexReg) (v : Word) : (s.setIndex xy v).i = s.i := by cases xy <;> rfl
@[simp] theorem State.setIndex_r7 (s : State) (xy : IndexReg) (v : Word) : (s.setIndex xy v).r7 = s.r7 := by cases xy <;> rfl
@[simp] theorem State.setIndex_rhi (s : State) (xy : IndexReg) (v : Word) : (s.setIndex xy v).rhi = s.rhi := by cases xy <;> rfl
@[simp] theorem State.setIndex_memptr (s : State) (xy : IndexReg) (v : Word) : (s.setIndex xy v).memptr = s.memptr := by cases xy <;> rfl
@[simp] theorem State.setIndex_qLast (s : State) (xy : IndexReg) (v : Word) : (s.setIndex xy v).qLast = s.qLast := by cases xy <;> rfl
@[simp] theorem State.setIndex_iff1 (s : State) (xy : IndexReg) (v : Word) : (s.setIndex xy v).iff1 = s.iff1 := by cases xy <;> rfl
@[simp] theorem State.setIndex_iff2 (s : State) (xy : IndexReg) (v : Word) : (s.setIndex xy v).iff2 = s.iff2 := by cases xy <;> rfl
@[simp] theorem State.setIndex_im (s : State) (xy : IndexReg) (v : Word) : (s.setIndex xy v).im = s.im := by cases xy <;> rfl
@[simp] theorem State.setIndex_halted (s : State) (xy : IndexReg) (v : Word) : (s.setIndex xy v).halted = s.halted := by cases xy <;> rfl
@[simp] theorem State.setIndex_pendingEI (s : State) (xy : IndexReg) (v : Word) : (s.setIndex xy v).pendingEI = s.pendingEI := by cases xy <;> rfl
@[simp] theorem State.setIndex_intLine (s : State) (xy : IndexReg) (v : Word) : (s.setIndex xy v).intLine = s.intLine := by cases xy <;> rfl
@[simp] theorem State.setIndex_nmiPending (s : State) (xy : IndexReg) (v : Word) : (s.setIndex xy v).nmiPending = s.nmiPending := by cases xy <;> rfl
@[simp] theorem State.setIndex_pfx (s : State) (xy : IndexReg) (v : Word) : (s.setIndex xy v).pfx = s.pfx := by cases xy <;> rfl
@[simp] theorem State.setIndex_pinResetReq (s : State) (xy : IndexReg) (v : Word) : (s.setIndex xy v).pinResetReq = s.pinResetReq := by cases xy <;> rfl
@[simp] theorem State.setIndex_bp (s : State) (xy : IndexReg) (v : Word) : (s.setIndex xy v).bp = s.bp := by cases xy <;> rfl
@[simp] theorem State.setIndex_traceEnabled (s : State) (xy : IndexReg) (v : Word) : (s.setIndex xy v).traceEnabled = s.traceEnabled := by cases xy <;> rfl
@[simp] theorem State.setIndex_mem (s : State) (xy : IndexReg) (v : Word) : (s.setIndex xy v).mem = s.mem := by cases xy <;> rfl
@[simp] theorem State.setIndex_bpHook (s : State) (xy : IndexReg) (v : Word) : (s.setIndex xy v).bpHook = s.bpHook := by cases xy <;> rfl
@[simp] theorem State.setIndex_history (s : State) (xy : IndexReg) (v : Word) : (s.setIndex xy v).history = s.history := by cases xy <;> rfl
@[simp] theorem State.setIndex_portInputs (s : State) (xy : IndexReg) (v : Word) : (s.setIndex xy v).portInputs = s.portInputs := by cases xy <;> rfl
@[simp] theorem State.setIndex_ackInputs (s : State) (xy : IndexReg) (v : Word) : (s.setIndex xy v).ackInputs = s.ackInputs := by cases xy <;> rfl
@[simp] theorem State.setIndex_params (s : State) (xy : IndexReg) (v : Word) : (s.setIndex xy v).params = s.params := by cases xy <;> rfl
@[simp] theorem State.setIndex_portDraws (s : State) (xy : IndexReg) (v : Word) : (s.setIndex xy v).portDraws = s.portDraws := by cases xy <;> rfl
@[simp] theorem State.setIndex_ackDraws (s : State) (xy : IndexReg) (v : Word) : (s.setIndex xy v).ackDraws = s.ackDraws := by cases xy <;> rfl
@[simp] theorem State.setIndex_qCur (s : State) (xy : IndexReg) (v : Word) : (s.setIndex xy v).qCur = s.qCur := by cases xy <;> rfl

/-! ### Reading back -/

@[simp] theorem State.reg8_setReg8 (s : State) (r : Reg8) (v : Byte) : (s.setReg8 r v).reg8 r = v := by cases r <;> rfl

theorem State.reg8_setReg8_of_ne (s : State) (r q : Reg8) (v : Byte) (h : q ≠ r) : (s.setReg8 r v).reg8 q = s.reg8 q := by
  cases r <;> cases q <;> first | rfl | exact absurd rfl h

@[simp] theorem State.index_setIndex (s : State) (xy : IndexReg) (v : Word) : (s.setIndex xy v).index xy = v := by
  cases xy <;> rfl

theorem State.index_setIndex_of_ne (s : State) (xy q : IndexReg) (v : Word) (h : q ≠ xy) :
    (s.setIndex xy v).index q = s.index q := by
  cases xy <;> cases q <;> first | rfl | exact absurd rfl h

@[simp] theorem State.hl_setHL (s : State) (v : Word) : (s.setHL v).hl = v := pair_hi8_lo8 v
@[simp] theorem State.de_setDE (s : State) (v : Word) : (s.setDE v).de = v := pair_hi8_lo8 v
@[simp] theorem State.bc_setBC (s : State) (v : Word) : (s.setBC v).bc = v := pair_hi8_lo8 v
@[simp] theorem State.af_setAF (s : State) (v : Word) : (s.setAF v).af = v := pair_hi8_lo8 v

@[simp] theorem State.rp_setRp (s : State) (p : Rp) (v : Word) : (s.setRp p v).rp p = v := by
  cases p <;> first | rfl | exact pair_hi8_lo8 v

theorem State.rp_setRp_of_ne (s : State) (p q : Rp) (v : Word) (h : q ≠ p) : (s.setRp p v).rp q = s.rp q := by
  cases p <;> cases q <;> first | rfl | exact absurd rfl h

/-- What a port read answers, and what it leaves of the host's supply and of the free draws (20_memory.md R89). -/
theorem State.portRead_eq (s : State) (p : Word) :
    s.portRead p =
      (s.portInputs.headD (Config.portIn s.portDraws p),
        { s with
          portInputs := s.portInputs.tail
          portDraws := if s.portInputs = [] then s.portDraws + 1 else s.portDraws
          history := .portRead p (s.portInputs.headD (Config.portIn s.portDraws p)) :: s.history }) := by
  unfold State.portRead; split <;> simp_all

end Sys2Proof.Machine
end

