-- ==== Sys2Proof/Laws/Ops.lean ====
section
/-! SUPPORT. One lemma per shared operation of Machine/Ops.lean and Machine/Operands.lean: everything it does, as one record
update or one case list, so that a proof cites it and does not unfold the operation. -/

namespace Sys2Proof.Machine

/-! ## Memory and stack (20_memory.md R84 to R88) -/

theorem State.memRead16_eq (s : State) (a : Word) :
    s.memRead16 a =
      (pair (s.peek (a + 1#16)) (s.peek a),
        { s with history := .read (a + 1#16) (s.peek (a + 1#16)) :: .read a (s.peek a) :: s.history }) := rfl

theorem State.memWrite16_eq (s : State) (a v : Word) :
    s.memWrite16 a v =
      { s with
        mem := (s.mem.write a (lo8 v)).write (a + 1#16) (hi8 v)
        history := .write (a + 1#16) (hi8 v) :: .write a (lo8 v) :: s.history } := rfl

theorem State.push16_eq (s : State) (v : Word) :
    s.push16 v =
      { s with
        sp := s.sp - 2#16
        mem := (s.mem.write (s.sp - 1#16) (hi8 v)).write (s.sp - 2#16) (lo8 v)
        history := .write (s.sp - 2#16) (lo8 v) :: .write (s.sp - 1#16) (hi8 v) :: s.history } := by
  have h : s.sp - 1#16 - 1#16 = s.sp - 2#16 := by bv_omega
  simp only [push16, memWrite, h]

theorem State.pop16_eq (s : State) :
    s.pop16 =
      (pair (s.peek (s.sp + 1#16)) (s.peek s.sp),
        { s with
          sp := s.sp + 2#16
          history := .read (s.sp + 1#16) (s.peek (s.sp + 1#16)) :: .read s.sp (s.peek s.sp) :: s.history }) := by
  have h : s.sp + 1#16 + 1#16 = s.sp + 2#16 := by bv_omega
  simp only [pop16, memRead, emit, peek, h]

/-- Every store keeps memory's canonical form. -/
theorem State.wf_memWrite (s : State) (a : Word) (v : Byte) (h : s.mem.wf = true) : (s.memWrite a v).mem.wf = true :=
  Memory.wf_write s.mem a v h

theorem State.wf_memWrite16 (s : State) (a v : Word) (h : s.mem.wf = true) : (s.memWrite16 a v).mem.wf = true :=
  Memory.wf_write _ _ _ (Memory.wf_write _ _ _ h)

theorem State.wf_push16 (s : State) (v : Word) (h : s.mem.wf = true) : (s.push16 v).mem.wf = true :=
  Memory.wf_write _ _ _ (Memory.wf_write _ _ _ h)

/-! ## Operand bytes (00_scope.md R12; 30_encoding.md R130) -/

theorem State.fetchOperands_zero (s : State) : s.fetchOperands 0 = s := rfl

theorem State.fetchOperands_one (s : State) :
    s.fetchOperands 1 = { s with pc := s.pc + 1#16, history := .read s.pc (s.peek s.pc) :: s.history } := rfl

theorem State.fetchOperands_two (s : State) :
    s.fetchOperands 2 =
      { s with
        pc := s.pc + 2#16
        history := .read (s.pc + 1#16) (s.peek (s.pc + 1#16)) :: .read s.pc (s.peek s.pc) :: s.history } := by
  have h : s.pc + 1#16 + 1#16 = s.pc + 2#16 := by bv_omega
  simp only [fetchOperands, imm8, memRead, emit, peek, h]

/-- Fetching operands changes PC and the history only. -/
theorem State.fetchOperands_frame (s : State) (n : Nat) :
    ∃ pc h, s.fetchOperands n = { s with pc := pc, history := h ++ s.history } := by
  induction n generalizing s with
  | zero => exact ⟨s.pc, [], rfl⟩
  | succ n ih =>
    obtain ⟨pc, h, e⟩ := ih s.imm8.2
    exact ⟨pc, h ++ [.read s.pc (s.peek s.pc)], by rw [fetchOperands, e]; simp [imm8, memRead, emit]⟩

/-- An instruction has at most two operand bytes after its opcode byte. -/
theorem operandBytes_le (i : Instr) : i.operandBytes ≤ 2 := by
  unfold Instr.operandBytes; split <;> decide

/-! ## Breakpoints (60_exceptions.md R630) -/

theorem State.consultBp_of_not_mem (s : State) (a : Word) (op : Byte) (h : s.bp.contains a = false) :
    s.consultBp a op = (op, s) := by
  simp only [consultBp, h, Bool.false_eq_true, if_false]

theorem State.consultBp_of_mem (s : State) (a : Word) (op : Byte) (h : s.bp.contains a = true) :
    s.consultBp a op =
      (hookResult s.bpHook a op, { s with history := .breakpoint a op (hookResult s.bpHook a op) :: s.history }) := by
  simp only [consultBp, h, if_true, emit]

/-- Consulting the breakpoints changes the history only. -/
theorem State.consultBp_frame (s : State) (a : Word) (op : Byte) :
    ∃ h, (s.consultBp a op).2 = { s with history := h ++ s.history } := by
  unfold consultBp; split
  · exact ⟨[_], rfl⟩
  · exact ⟨[], rfl⟩

/-! ## Interrupts (60_exceptions.md R606 to R617) -/

/-- The acknowledge byte and what its draw leaves (R612). -/
theorem State.drawAck_eq (s : State) :
    s.drawAck =
      (s.ackInputs.headD (Config.intAckByte s.ackDraws),
        { s with
          ackInputs := s.ackInputs.tail
          ackDraws := if s.ackInputs = [] then s.ackDraws + 1 else s.ackDraws
          history := .intAck (s.ackInputs.headD (Config.intAckByte s.ackDraws)) :: s.history }) := by
  unfold drawAck; split <;> simp_all

/-- Waking moves a halted core past its HALT byte (R609). -/
theorem State.wake_eq (s : State) :
    s.wake = { s with halted := false, pc := if s.halted then s.pc + 1#16 else s.pc } := by
  cases h : s.halted
  · simp only [wake, h]; cases s; dsimp only at h; subst h; rfl
  · simp only [wake, h]; rfl

/-- The entry both acceptances share, in one record update (R608 to R612). -/
theorem State.enterInterrupt_eq (s : State) (iff2 : Bool) :
    s.enterInterrupt iff2 =
      let ret := if s.halted then s.pc + 1#16 else s.pc
      { s with
        halted := false, pc := ret, r7 := s.r7 + 1#7, iff1 := false, iff2 := iff2, qLast := false
        sp := s.sp - 2#16
        mem := (s.mem.write (s.sp - 1#16) (hi8 ret)).write (s.sp - 2#16) (lo8 ret)
        history := .write (s.sp - 2#16) (lo8 ret) :: .write (s.sp - 1#16) (hi8 ret) :: s.history } := by
  simp only [enterInterrupt, wake_eq, incR, push16_eq]

/-- What sampling can answer: an NMI acceptance, a maskable acceptance, or the state itself (R606, R607). -/
theorem State.sampleInterrupts_cases (s : State) :
    (s.nmiPending = true ∧ s.sampleInterrupts = .next ({ s with nmiPending := false }).acceptNMI) ∨
    (s.nmiPending = false ∧ s.iff1 = true ∧ s.pendingEI = false ∧ s.intLine = true ∧
      s.sampleInterrupts = s.acceptINT) ∨
    (s.nmiPending = false ∧ (s.iff1 = false ∨ s.pendingEI = true ∨ s.intLine = false) ∧
      s.sampleInterrupts = .next s) := by
  unfold sampleInterrupts
  cases s.nmiPending <;> cases s.iff1 <;> cases s.pendingEI <;> cases s.intLine <;> simp

/-- A maskable acceptance faults at an IM 0 byte that is no RST opcode and nowhere else (R613). -/
theorem State.acceptINT_fault (s : State) (r : Fault) (h : s.acceptINT = .fault r) :
    s.im = .im0 ∧ s.drawAck.1 &&& 0xC7#8 ≠ 0xC7#8 ∧ r = .im0NotRST s.drawAck.1 := by
  have him : (s.drawAck.2.enterInterrupt false).im = s.im := by simp only [enterInterrupt_eq, drawAck_eq]
  simp only [acceptINT, him] at h
  split at h
  · rename_i hm
    split at h
    · cases h
    · rename_i hr
      cases h
      exact ⟨hm, hr, rfl⟩
  · cases h
  · cases h

/-- When sampling faults: the line accepted in IM 0, with no NMI, and a byte that is no RST opcode (R606, R613). -/
theorem State.sampleInterrupts_fault (s : State) (r : Fault) (h : s.sampleInterrupts = .fault r) :
    s.nmiPending = false ∧ s.iff1 = true ∧ s.pendingEI = false ∧ s.intLine = true ∧ s.im = .im0 ∧
      s.drawAck.1 &&& 0xC7#8 ≠ 0xC7#8 ∧ r = .im0NotRST s.drawAck.1 := by
  obtain ⟨_, e⟩ | ⟨hn, hi, hp, hl, e⟩ | ⟨_, _, e⟩ := s.sampleInterrupts_cases
  · rw [e] at h; cases h
  · rw [e] at h; exact ⟨hn, hi, hp, hl, s.acceptINT_fault r h⟩
  · rw [e] at h; cases h

/-- Return from a handler: PC and MEMPTR from the stack, IFF2 copied to IFF1, nothing else (R616). -/
theorem State.returnFromInterrupt_eq (s : State) :
    s.returnFromInterrupt =
      { s with
        sp := s.sp + 2#16
        pc := pair (s.peek (s.sp + 1#16)) (s.peek s.sp), memptr := pair (s.peek (s.sp + 1#16)) (s.peek s.sp)
        iff1 := s.iff2
        history := .read (s.sp + 1#16) (s.peek (s.sp + 1#16)) :: .read s.sp (s.peek s.sp) :: s.history } := by
  simp only [returnFromInterrupt, pop16_eq]

/-! ## The instruction boundary (30_encoding.md R138) -/

theorem State.boundary_eq (s : State) :
    s.boundary =
      { s with qLast := s.qCur, qCur := false, history := if s.traceEnabled then .boundary :: s.history else s.history } := by
  unfold boundary emit; dsimp only; split <;> rfl

theorem State.endStep_of_pending (s : State) (h : s.pfx ≠ .noPfx) : s.endStep = .next s := if_neg h

theorem State.endStep_of_boundary (s : State) (h : s.pfx = .noPfx) : s.endStep = s.boundary.sampleInterrupts := if_pos h

/-! ## Operands (30_encoding.md R112, R113) -/

/-- A write of one half leaves every other half of the index registers. -/
theorem State.half_setHalf (s : State) (xy q : IndexReg) (half k : Half) (v : Byte) :
    (s.setHalf xy half v).half q k = if q = xy ∧ k = half then v else s.half q k := by
  cases xy <;> cases half <;> cases q <;> cases k <;>
    simp [setHalf, State.half, index, setIndex, hi8_pair, lo8_pair]

/-- A write of one half touches IX and IY only. -/
theorem State.setHalf_frame (s : State) (xy : IndexReg) (half : Half) (v : Byte) :
    ∃ x y, s.setHalf xy half v = { s with ix := x, iy := y } := by
  cases xy <;> cases half <;> exact ⟨_, _, rfl⟩

theorem State.readAtHl_eq (s : State) :
    s.readAtHl = (s.peek s.hl, { s with history := .read s.hl (s.peek s.hl) :: s.history }) := rfl

theorem State.readAtXyD_eq (s : State) (xy : IndexReg) (d : Byte) :
    s.readAtXyD xy d =
      (s.peek (s.ea xy d),
        { s with memptr := s.ea xy d, history := .read (s.ea xy d) (s.peek (s.ea xy d)) :: s.history }) := rfl

theorem State.jumpRelative_eq (s : State) (e : Byte) :
    s.jumpRelative e = { s with pc := s.pc + sext16 e, memptr := s.pc + sext16 e } := rfl

end Sys2Proof.Machine
end

