-- ==== Sys2Proof/Laws/Exec.lean ====
section
/-! SUPPORT. The two rows that run another table entry, reduced to `exec` of that entry, and what the table decoders can
give: so that a claim about every instruction needs a proof only for the simple ones. -/

namespace Sys2Proof.Machine

/-- Neither the DD/FD fallback nor CB after DD or FD: an instruction with an effect of its own. -/
def isSimple (i : Instr) : Bool :=
  match i with
  | .fallbackXy _ _ | .prefixCbAfterXy _ => false
  | _ => true

/-! ## `execMain` and `execIndexCB` agree with `exec` where the decoder gives the instruction -/

theorem execMain_decodeMain0 (op o1 o2 : Byte) (s : State) :
    execMain (decodeMain0 op o1 o2) s = exec (decodeMain0 op o1 o2) s := by
  unfold decodeMain0
  repeat' split
  all_goals rfl

theorem execMain_decodeMain1 (op : Byte) (s : State) : execMain (decodeMain1 op) s = exec (decodeMain1 op) s := by
  unfold decodeMain1; split <;> rfl

theorem execMain_decodeMain2 (op : Byte) (s : State) : execMain (decodeMain2 op) s = exec (decodeMain2 op) s := by
  unfold decodeMain2 aluReg aluAtHl; split <;> split <;> rfl

theorem execMain_decodeMain3 (op o1 o2 : Byte) (s : State) :
    execMain (decodeMain3 op o1 o2) s = exec (decodeMain3 op o1 o2) s := by
  unfold decodeMain3 aluImm
  repeat' split
  all_goals rfl

theorem execMain_decodeMain (op o1 o2 : Byte) (s : State) :
    execMain (decodeMain op o1 o2) s = exec (decodeMain op o1 o2) s := by
  unfold decodeMain
  split
  · exact execMain_decodeMain0 ..
  · exact execMain_decodeMain1 ..
  · exact execMain_decodeMain2 ..
  · exact execMain_decodeMain3 ..

theorem execIndexCB_decodeIndexCB (xy : IndexReg) (d op : Byte) (s : State) :
    execIndexCB (decodeIndexCB xy d op) s = exec (decodeIndexCB xy d op) s := by
  unfold decodeIndexCB rotAtXyDR rotAtXyD
  repeat' split
  all_goals rfl

/-! ## The table decoders give simple instructions -/

theorem isSimple_decodeMain (op o1 o2 : Byte) : isSimple (decodeMain op o1 o2) = true := by
  unfold decodeMain decodeMain0 decodeMain1 decodeMain2 decodeMain3 aluReg aluAtHl aluImm
  repeat' split
  all_goals rfl

theorem isSimple_decodeIndexCB (xy : IndexReg) (d op : Byte) : isSimple (decodeIndexCB xy d op) = true := by
  unfold decodeIndexCB rotAtXyDR rotAtXyD
  repeat' split
  all_goals rfl

/-! ## The two rows -/

/-- The fallback is `exec` of the main-table entry of the byte the breakpoints leave, after that entry's operand reads
(30_encoding.md R137). -/
theorem exec_fallbackXy (xy : IndexReg) (op : Byte) (s : State) :
    exec (.fallbackXy xy op) s =
      let i := decodeMain (s.consultBp (s.pc - 1#16) op).1 (s.peek s.pc) (s.peek (s.pc + 1#16))
      exec i ((s.consultBp (s.pc - 1#16) op).2.fetchOperands i.operandBytes) := by
  obtain ⟨h, e⟩ := State.consultBp_frame s (s.pc - 1#16) op
  have unfolded : exec (.fallbackXy xy op) s = execFallbackXy xy op s := rfl
  rw [unfolded]; unfold execFallbackXy
  dsimp only
  rw [execMain_decodeMain]
  simp only [State.peek, e]

/-- CB after DD or FD is `exec` of the DD/FD CB entry of the second operand byte, after both reads (R141). -/
theorem exec_prefixCbAfterXy (xy : IndexReg) (s : State) :
    exec (.prefixCbAfterXy xy) s =
      exec (decodeIndexCB xy (s.peek s.pc) (s.peek (s.pc + 1#16))) (s.fetchOperands 2) := by
  have unfolded : exec (.prefixCbAfterXy xy) s = execPrefixCbAfterXy xy s := rfl
  rw [unfolded]; unfold execPrefixCbAfterXy
  dsimp only
  rw [execIndexCB_decodeIndexCB]
  rfl

end Sys2Proof.Machine
end

