-- ==== Sys2Proof/Laws/Flags.lean ====
section
/-! SUPPORT. The flag computations in exact integer arithmetic: carry, half carry and overflow of sums and differences
(43_alu8.md R310, R311; 45_alu16.md R410 to R412), sign and parity. -/

namespace Sys2Proof.Machine

/-! ## Bits as quotients -/

theorem bit7_eq (v : Byte) : v.getLsbD 7 = decide (128 ≤ v.toNat) := by
  have := v.isLt
  rw [getLsbD_eq_div]; congr 1; exact propext (by omega)

theorem bit15_eq (v : Word) : v.getLsbD 15 = decide (32768 ≤ v.toNat) := by
  have := v.isLt
  rw [getLsbD_eq_div]; congr 1; exact propext (by omega)

theorem eq_zero_iff {w : Nat} (v : BitVec w) : (v = 0#w) ↔ v.toNat = 0 := by
  constructor
  · rintro rfl; simp
  · intro h; exact BitVec.eq_of_toNat_eq (by simpa using h)

/-! ## Results as numbers -/

theorem toNat_add_carry8 (a b : Byte) (c : Bool) :
    (a + b + carryIn c).toNat = (a.toNat + b.toNat + c.toNat) % 256 := by
  simp [BitVec.toNat_add, toNat_carryIn]

theorem toNat_sub_carry8 (a b : Byte) (c : Bool) :
    (a - b - carryIn c).toNat = (a.toNat + 512 - b.toNat - c.toNat) % 256 := by
  have := a.isLt; have := b.isLt
  simp only [BitVec.toNat_sub, toNat_carryIn]
  cases c <;> simp <;> omega

theorem toNat_add_carry16 (a b : Word) (c : Bool) :
    (a + b + (carryIn c).setWidth 16).toNat = (a.toNat + b.toNat + c.toNat) % 65536 := by
  have : ((carryIn c).setWidth 16).toNat = c.toNat := by cases c <;> rfl
  simp [BitVec.toNat_add, this]

theorem toNat_sub_carry16 (a b : Word) (c : Bool) :
    (a - b - (carryIn c).setWidth 16).toNat = (a.toNat + 131072 - b.toNat - c.toNat) % 65536 := by
  have h : ((carryIn c).setWidth 16).toNat = c.toNat := by cases c <;> rfl
  have := a.isLt; have := b.isLt
  simp only [BitVec.toNat_sub, h]
  cases c <;> simp <;> omega

/-! ## Half carry -/

theorem xor3_bit {w : Nat} (a b r : BitVec w) (k : Nat) :
    (a ^^^ b ^^^ r).getLsbD k = (decide ((a.toNat / 2 ^ k + b.toNat / 2 ^ k + r.toNat / 2 ^ k) % 2 = 1)) := by
  simp only [BitVec.getLsbD_xor]; simp only [getLsbD_eq_div]
  generalize a.toNat / 2 ^ k = x
  generalize b.toNat / 2 ^ k = y
  generalize r.toNat / 2 ^ k = z
  rcases Nat.mod_two_eq_zero_or_one x with hx | hx <;> rcases Nat.mod_two_eq_zero_or_one y with hy | hy <;>
    rcases Nat.mod_two_eq_zero_or_one z with hz | hz <;> simp [hx, hy, hz] <;> omega

theorem half_add8 (a b : Byte) (c : Bool) :
    (a ^^^ b ^^^ (a + b + carryIn c)).getLsbD 4 = decide (15 < a.toNat % 16 + b.toNat % 16 + c.toNat) := by
  rw [xor3_bit, toNat_add_carry8]
  have := a.isLt; have := b.isLt; have := Bool.toNat_le c
  congr 1; exact propext (by omega)

theorem half_sub8 (a b : Byte) (c : Bool) :
    (a ^^^ b ^^^ (a - b - carryIn c)).getLsbD 4 = decide (a.toNat % 16 < b.toNat % 16 + c.toNat) := by
  rw [xor3_bit, toNat_sub_carry8]
  have := a.isLt; have := b.isLt; have := Bool.toNat_le c
  congr 1; exact propext (by omega)

theorem half_add16 (a b : Word) (c : Bool) :
    (a ^^^ b ^^^ (a + b + (carryIn c).setWidth 16)).getLsbD 12 = decide (4095 < a.toNat % 4096 + b.toNat % 4096 + c.toNat) := by
  rw [xor3_bit, toNat_add_carry16]
  have := a.isLt; have := b.isLt; have := Bool.toNat_le c
  congr 1; exact propext (by omega)

theorem half_sub16 (a b : Word) (c : Bool) :
    (a ^^^ b ^^^ (a - b - (carryIn c).setWidth 16)).getLsbD 12 = decide (a.toNat % 4096 < b.toNat % 4096 + c.toNat) := by
  rw [xor3_bit, toNat_sub_carry16]
  have := a.isLt; have := b.isLt; have := Bool.toNat_le c
  congr 1; exact propext (by omega)

/-! ## Overflow -/

theorem toInt8 (a : Byte) : a.toInt = if a.toNat < 128 then (a.toNat : Int) else (a.toNat : Int) - 256 := by
  have := a.isLt
  rw [BitVec.toInt_eq_toNat_cond]; split <;> split <;> omega

theorem toInt16 (a : Word) : a.toInt = if a.toNat < 32768 then (a.toNat : Int) else (a.toNat : Int) - 65536 := by
  have := a.isLt
  rw [BitVec.toInt_eq_toNat_cond]; split <;> split <;> omega

theorem overflow_add8 (a b : Byte) (c : Bool) :
    ((a ^^^ ~~~b) &&& (a ^^^ (a + b + carryIn c))).getLsbD 7 =
      decide (a.toInt + b.toInt + c.toNat < -128 ∨ 127 < a.toInt + b.toInt + c.toNat) := by
  have := a.isLt; have := b.isLt; have := Bool.toNat_le c
  simp only [BitVec.getLsbD_and, BitVec.getLsbD_xor, BitVec.getLsbD_not]; simp only [bit7_eq, toNat_add_carry8, toInt8]
  rcases Nat.lt_or_ge a.toNat 128 with ha | ha <;> rcases Nat.lt_or_ge b.toNat 128 with hb | hb <;>
    rw [Bool.eq_iff_iff] <;> simp [ha, hb, Nat.not_lt.mpr, Nat.not_le.mpr] <;> omega

theorem overflow_sub8 (a b : Byte) (c : Bool) :
    ((a ^^^ b) &&& (a ^^^ (a - b - carryIn c))).getLsbD 7 =
      decide (a.toInt - b.toInt - c.toNat < -128 ∨ 127 < a.toInt - b.toInt - c.toNat) := by
  have := a.isLt; have := b.isLt; have := Bool.toNat_le c
  simp only [BitVec.getLsbD_and, BitVec.getLsbD_xor]; simp only [bit7_eq, toNat_sub_carry8, toInt8]
  rcases Nat.lt_or_ge a.toNat 128 with ha | ha <;> rcases Nat.lt_or_ge b.toNat 128 with hb | hb <;>
    rw [Bool.eq_iff_iff] <;> simp [ha, hb, Nat.not_lt.mpr, Nat.not_le.mpr] <;> omega

theorem overflow_add16 (a b : Word) (c : Bool) :
    ((a ^^^ ~~~b) &&& (a ^^^ (a + b + (carryIn c).setWidth 16))).getLsbD 15 =
      decide (a.toInt + b.toInt + c.toNat < -32768 ∨ 32767 < a.toInt + b.toInt + c.toNat) := by
  have := a.isLt; have := b.isLt; have := Bool.toNat_le c
  simp only [BitVec.getLsbD_and, BitVec.getLsbD_xor, BitVec.getLsbD_not]; simp only [bit15_eq, toNat_add_carry16, toInt16]
  rcases Nat.lt_or_ge a.toNat 32768 with ha | ha <;> rcases Nat.lt_or_ge b.toNat 32768 with hb | hb <;>
    rw [Bool.eq_iff_iff] <;> simp [ha, hb, Nat.not_lt.mpr, Nat.not_le.mpr] <;> omega

theorem overflow_sub16 (a b : Word) (c : Bool) :
    ((a ^^^ b) &&& (a ^^^ (a - b - (carryIn c).setWidth 16))).getLsbD 15 =
      decide (a.toInt - b.toInt - c.toNat < -32768 ∨ 32767 < a.toInt - b.toInt - c.toNat) := by
  have := a.isLt; have := b.isLt; have := Bool.toNat_le c
  simp only [BitVec.getLsbD_and, BitVec.getLsbD_xor]; simp only [bit15_eq, toNat_sub_carry16, toInt16]
  rcases Nat.lt_or_ge a.toNat 32768 with ha | ha <;> rcases Nat.lt_or_ge b.toNat 32768 with hb | hb <;>
    rw [Bool.eq_iff_iff] <;> simp [ha, hb, Nat.not_lt.mpr, Nat.not_le.mpr] <;> omega

end Sys2Proof.Machine
end

