-- ==== Sys2Proof/Laws/HostOps.lean ====
section
/-! SUPPORT. What the host's moves do (60_exceptions.md R635): the breakpoint set as a strictly rising list, registers and
flags read back, the end condition by cases, and the first push after a full reset. -/

namespace Sys2Proof.Machine

/-! ## The breakpoint set (R630; log entry 8) -/

theorem rising_cons (x : Word) (l : List Word) :
    rising (x :: l) = true ↔ (∀ y ∈ l.head?, x < y) ∧ rising l = true := by
  cases l <;> simp [rising]

/-- Inserting an address makes it, and no other, newly a member. -/
theorem contains_insertAddr (l : List Word) (x y : Word) :
    (insertAddr l x).contains y = (decide (y = x) || l.contains y) := by
  induction l with
  | nil => simp [insertAddr]
  | cons z r ih =>
    unfold insertAddr
    split
    · simp
    · split
      · subst_vars; simp
      · rw [List.contains_cons, ih, List.contains_cons]; cases decide (y = x) <;> cases (y == z) <;> rfl

theorem head_insertAddr (l : List Word) (a : Word) :
    (insertAddr l a).head? = some a ∨ (insertAddr l a).head? = l.head? := by
  cases l with
  | nil => exact .inl rfl
  | cons x r =>
    unfold insertAddr
    split
    · exact .inl rfl
    · split <;> exact .inr rfl

/-- Inserting keeps the canonical form. -/
theorem rising_insertAddr (l : List Word) (a : Word) (h : rising l = true) : rising (insertAddr l a) = true := by
  induction l with
  | nil => rfl
  | cons x r ih =>
    have hr := (rising_cons x r).mp h
    unfold insertAddr
    split
    · rename_i hlt
      exact (rising_cons _ _).mpr ⟨by simpa using hlt, h⟩
    · split
      · exact h
      · refine (rising_cons _ _).mpr ⟨fun y hy => ?_, ih hr.2⟩
        rcases head_insertAddr r a with e | e
        · rw [e] at hy; simp at hy; subst hy; bv_omega
        · rw [e] at hy; exact hr.1 y hy

theorem lt_of_rising (x : Word) (l : List Word) (h : rising (x :: l) = true) : ∀ y ∈ l, x < y := by
  induction l generalizing x with
  | nil => simp
  | cons z r ih =>
    have hx := (rising_cons x (z :: r)).mp h
    have hz : x < z := hx.1 z rfl
    intro y hy
    rcases List.mem_cons.mp hy with rfl | hy
    · exact hz
    · have := ih z hx.2 y hy; bv_omega

/-- Taking addresses out keeps the canonical form. -/
theorem rising_filter (l : List Word) (p : Word → Bool) (h : rising l = true) : rising (l.filter p) = true := by
  induction l with
  | nil => rfl
  | cons x r ih =>
    have hr := (rising_cons x r).mp h
    rw [List.filter_cons]
    split
    · exact (rising_cons _ _).mpr
        ⟨fun y hy => lt_of_rising x r h y (List.mem_filter.mp (List.mem_of_mem_head? hy)).1, ih hr.2⟩
    · exact ih hr.2

/-! ## Flags (10_state.md R27, R47) -/

/-- A flag's position tells it from the others. -/
theorem FlagName.bit_inj (g fl : FlagName) : g.bit = fl.bit ↔ g = fl := by
  cases g <;> cases fl <;> decide

/-- A byte with bit `j` written: that bit is `v`, every other as before. -/
theorem getLsbD_writeBit (f : Byte) (v : Bool) (j k : Nat) (hk : k < 8) :
    ((f &&& ~~~(1#8 <<< j)) ||| (carryIn v <<< j)).getLsbD k = if k = j then v else f.getLsbD k := by
  have hc : ∀ n, (carryIn v).getLsbD n = (v && decide (n = 0)) := by
    intro n; cases v <;> cases n <;> simp [carryIn]
  simp only [BitVec.getLsbD_or, BitVec.getLsbD_and, BitVec.getLsbD_not, BitVec.getLsbD_shiftLeft, BitVec.getLsbD_one, hc, hk]
  rcases Nat.lt_trichotomy k j with h | h | h
  · simp [h, Nat.ne_of_lt h]
  · simp [h]
  · simp [Nat.ne_of_gt h, show ¬ k < j by omega, show k - j ≠ 0 by omega]

/-- Writing a flag changes that flag alone. -/
theorem State.readFlag_writeFlag (s : State) (fl g : FlagName) (v : Bool) :
    (s.writeFlag fl v).readFlag g = if g = fl then v else s.readFlag g := by
  have hg : g.bit < 8 := by cases g <;> decide
  simp only [writeFlag, readFlag, getLsbD_writeBit _ _ _ _ hg, FlagName.bit_inj]

/-! ## The end condition (R636; log entry 22) -/

/-- What `endCondition` answers, for a step of each outcome. -/
theorem endCondition_next (completion : List Word) (s t : State) (h : step s = .next t) :
    endCondition completion s =
      if t.haltedForGood then some .haltedForGood
      else if s.fetchesAt completion then some .breakpointReached else none := by
  simp only [endCondition, h]

theorem endCondition_fault (completion : List Word) (s : State) (r : Fault) (h : step s = .fault r) :
    endCondition completion s = some .fault := by
  simp only [endCondition, h]

/-! ## The first push after a full reset (R44, R88; log entry 21) -/

/-- A push that follows a full reset stores its high byte at 0xFFFE and its low byte at 0xFFFD, whatever the state before. -/
theorem State.push16_fullReset (s : State) (v : Word) :
    s.fullReset.push16 v =
      { s.fullReset with
        sp := 0xFFFD#16
        mem := (s.mem.write 0xFFFE#16 (hi8 v)).write 0xFFFD#16 (lo8 v)
        history := .write 0xFFFD#16 (lo8 v) :: .write 0xFFFE#16 (hi8 v) :: s.history } := by
  have h1 : s.fullReset.sp - 1#16 = 0xFFFE#16 := by simp only [fullReset]; decide
  have h2 : s.fullReset.sp - 2#16 = 0xFFFD#16 := by simp only [fullReset]; decide
  rw [push16_eq, h1, h2]
  rfl

/-- The two addresses 70_reset_and_hazards.md R710 names, in either order, are those of a push from SP 0x0000 and from no
other SP. -/
theorem push_addresses_of_r710_iff (sp : Word) :
    (sp - 1#16 = 0xFFFF#16 ∧ sp - 2#16 = 0xFFFE#16) ∨ (sp - 1#16 = 0xFFFE#16 ∧ sp - 2#16 = 0xFFFF#16) ↔ sp = 0x0000#16 := by
  constructor
  · rintro (⟨h, _⟩ | ⟨h, h'⟩) <;> bv_omega
  · rintro rfl; decide

end Sys2Proof.Machine
end

