-- ==== Sys2Proof/Laws/PerInstr.lean ====
section
/-! SUPPORT. The per-instruction family `EncodeLength`: an encoding's length, instruction by instruction. The bytes before the
opcode byte, the opcode byte itself, and the operand bytes that the step reads after it make up the whole encoding
(30_encoding.md R110, R141). -/

namespace Sys2Proof.Laws.EncodeLength

open Sys2Proof

/-- How many bytes of an instruction come before the byte whose fetch runs it (R130, R133). -/
def lead (i : Instr) : Nat :=
  match encode i with
  | first :: _ :: _ => if (pfxOfByte first).isSome then 1 else 0
  | _ => 0

/-- An encoding is the bytes before the opcode byte, that byte, and the operand bytes; at most four in all. -/
def Statement (i : Instr) : Prop := (encode i).length = lead i + 1 + i.operandBytes ∧ (encode i).length ≤ 4

theorem nop : Statement .nop := by
  exact ⟨rfl, Nat.le_of_ble_eq_true rfl⟩

theorem exAfAf : Statement .exAfAf := by
  exact ⟨rfl, Nat.le_of_ble_eq_true rfl⟩

theorem djnz (e : Byte) : Statement (.djnz e) := by
  exact ⟨rfl, Nat.le_of_ble_eq_true rfl⟩

theorem jr (e : Byte) : Statement (.jr e) := by
  exact ⟨rfl, Nat.le_of_ble_eq_true rfl⟩

theorem jrCc (cc : Cond) (e : Byte) : Statement (.jrCc cc e) := by
  cases cc <;> exact ⟨rfl, Nat.le_of_ble_eq_true rfl⟩

theorem ldRpNn (rp : Rp) (nn : Word) : Statement (.ldRpNn rp nn) := by
  cases rp <;> exact ⟨rfl, Nat.le_of_ble_eq_true rfl⟩

theorem addHlRp (rp : Rp) : Statement (.addHlRp rp) := by
  exact ⟨rfl, Nat.le_of_ble_eq_true rfl⟩

theorem ldAtBcA : Statement .ldAtBcA := by
  exact ⟨rfl, Nat.le_of_ble_eq_true rfl⟩

theorem ldAtDeA : Statement .ldAtDeA := by
  exact ⟨rfl, Nat.le_of_ble_eq_true rfl⟩

theorem ldAtNnHl (nn : Word) : Statement (.ldAtNnHl nn) := by
  exact ⟨rfl, Nat.le_of_ble_eq_true rfl⟩

theorem ldAtNnA (nn : Word) : Statement (.ldAtNnA nn) := by
  exact ⟨rfl, Nat.le_of_ble_eq_true rfl⟩

theorem ldAAtBc : Statement .ldAAtBc := by
  exact ⟨rfl, Nat.le_of_ble_eq_true rfl⟩

theorem ldAAtDe : Statement .ldAAtDe := by
  exact ⟨rfl, Nat.le_of_ble_eq_true rfl⟩

theorem ldHlAtNn (nn : Word) : Statement (.ldHlAtNn nn) := by
  exact ⟨rfl, Nat.le_of_ble_eq_true rfl⟩

theorem ldAAtNn (nn : Word) : Statement (.ldAAtNn nn) := by
  exact ⟨rfl, Nat.le_of_ble_eq_true rfl⟩

theorem incRp (rp : Rp) : Statement (.incRp rp) := by
  exact ⟨rfl, Nat.le_of_ble_eq_true rfl⟩

theorem decRp (rp : Rp) : Statement (.decRp rp) := by
  exact ⟨rfl, Nat.le_of_ble_eq_true rfl⟩

theorem incR (r : Reg8) : Statement (.incR r) := by
  exact ⟨rfl, Nat.le_of_ble_eq_true rfl⟩

theorem incAtHl : Statement .incAtHl := by
  exact ⟨rfl, Nat.le_of_ble_eq_true rfl⟩

theorem decR (r : Reg8) : Statement (.decR r) := by
  exact ⟨rfl, Nat.le_of_ble_eq_true rfl⟩

theorem decAtHl : Statement .decAtHl := by
  exact ⟨rfl, Nat.le_of_ble_eq_true rfl⟩

theorem ldRN (r : Reg8) (n : Byte) : Statement (.ldRN r n) := by
  cases r <;> exact ⟨rfl, Nat.le_of_ble_eq_true rfl⟩

theorem ldAtHlN (n : Byte) : Statement (.ldAtHlN n) := by
  exact ⟨rfl, Nat.le_of_ble_eq_true rfl⟩

theorem rlca : Statement .rlca := by
  exact ⟨rfl, Nat.le_of_ble_eq_true rfl⟩

theorem rrca : Statement .rrca := by
  exact ⟨rfl, Nat.le_of_ble_eq_true rfl⟩

theorem rla : Statement .rla := by
  exact ⟨rfl, Nat.le_of_ble_eq_true rfl⟩

theorem rra : Statement .rra := by
  exact ⟨rfl, Nat.le_of_ble_eq_true rfl⟩

theorem daa : Statement .daa := by
  exact ⟨rfl, Nat.le_of_ble_eq_true rfl⟩

theorem cpl : Statement .cpl := by
  exact ⟨rfl, Nat.le_of_ble_eq_true rfl⟩

theorem scf : Statement .scf := by
  exact ⟨rfl, Nat.le_of_ble_eq_true rfl⟩

theorem ccf : Statement .ccf := by
  exact ⟨rfl, Nat.le_of_ble_eq_true rfl⟩

theorem halt : Statement .halt := by
  exact ⟨rfl, Nat.le_of_ble_eq_true rfl⟩

theorem ldRAtHl (r : Reg8) : Statement (.ldRAtHl r) := by
  exact ⟨rfl, Nat.le_of_ble_eq_true rfl⟩

theorem ldAtHlR (r : Reg8) : Statement (.ldAtHlR r) := by
  exact ⟨rfl, Nat.le_of_ble_eq_true rfl⟩

theorem ldRR (dst : Reg8) (src : Reg8) : Statement (.ldRR dst src) := by
  cases dst <;> exact ⟨rfl, Nat.le_of_ble_eq_true rfl⟩

theorem addAR (r : Reg8) : Statement (.addAR r) := by
  exact ⟨rfl, Nat.le_of_ble_eq_true rfl⟩

theorem addAAtHl : Statement .addAAtHl := by
  exact ⟨rfl, Nat.le_of_ble_eq_true rfl⟩

theorem addAN (n : Byte) : Statement (.addAN n) := by
  exact ⟨rfl, Nat.le_of_ble_eq_true rfl⟩

theorem adcAR (r : Reg8) : Statement (.adcAR r) := by
  exact ⟨rfl, Nat.le_of_ble_eq_true rfl⟩

theorem adcAAtHl : Statement .adcAAtHl := by
  exact ⟨rfl, Nat.le_of_ble_eq_true rfl⟩

theorem adcAN (n : Byte) : Statement (.adcAN n) := by
  exact ⟨rfl, Nat.le_of_ble_eq_true rfl⟩

theorem subR (r : Reg8) : Statement (.subR r) := by
  exact ⟨rfl, Nat.le_of_ble_eq_true rfl⟩

theorem subAtHl : Statement .subAtHl := by
  exact ⟨rfl, Nat.le_of_ble_eq_true rfl⟩

theorem subN (n : Byte) : Statement (.subN n) := by
  exact ⟨rfl, Nat.le_of_ble_eq_true rfl⟩

theorem sbcAR (r : Reg8) : Statement (.sbcAR r) := by
  exact ⟨rfl, Nat.le_of_ble_eq_true rfl⟩

theorem sbcAAtHl : Statement .sbcAAtHl := by
  exact ⟨rfl, Nat.le_of_ble_eq_true rfl⟩

theorem sbcAN (n : Byte) : Statement (.sbcAN n) := by
  exact ⟨rfl, Nat.le_of_ble_eq_true rfl⟩

theorem andR (r : Reg8) : Statement (.andR r) := by
  exact ⟨rfl, Nat.le_of_ble_eq_true rfl⟩

theorem andAtHl : Statement .andAtHl := by
  exact ⟨rfl, Nat.le_of_ble_eq_true rfl⟩

theorem andN (n : Byte) : Statement (.andN n) := by
  exact ⟨rfl, Nat.le_of_ble_eq_true rfl⟩

theorem xorR (r : Reg8) : Statement (.xorR r) := by
  exact ⟨rfl, Nat.le_of_ble_eq_true rfl⟩

theorem xorAtHl : Statement .xorAtHl := by
  exact ⟨rfl, Nat.le_of_ble_eq_true rfl⟩

theorem xorN (n : Byte) : Statement (.xorN n) := by
  exact ⟨rfl, Nat.le_of_ble_eq_true rfl⟩

theorem orR (r : Reg8) : Statement (.orR r) := by
  exact ⟨rfl, Nat.le_of_ble_eq_true rfl⟩

theorem orAtHl : Statement .orAtHl := by
  exact ⟨rfl, Nat.le_of_ble_eq_true rfl⟩

theorem orN (n : Byte) : Statement (.orN n) := by
  exact ⟨rfl, Nat.le_of_ble_eq_true rfl⟩

theorem cpR (r : Reg8) : Statement (.cpR r) := by
  exact ⟨rfl, Nat.le_of_ble_eq_true rfl⟩

theorem cpAtHl : Statement .cpAtHl := by
  exact ⟨rfl, Nat.le_of_ble_eq_true rfl⟩

theorem cpN (n : Byte) : Statement (.cpN n) := by
  exact ⟨rfl, Nat.le_of_ble_eq_true rfl⟩

theorem retCc (cc : Cond) : Statement (.retCc cc) := by
  exact ⟨rfl, Nat.le_of_ble_eq_true rfl⟩

theorem popRp2 (rp : Rp2) : Statement (.popRp2 rp) := by
  exact ⟨rfl, Nat.le_of_ble_eq_true rfl⟩

theorem ret : Statement .ret := by
  exact ⟨rfl, Nat.le_of_ble_eq_true rfl⟩

theorem exx : Statement .exx := by
  exact ⟨rfl, Nat.le_of_ble_eq_true rfl⟩

theorem jpHl : Statement .jpHl := by
  exact ⟨rfl, Nat.le_of_ble_eq_true rfl⟩

theorem ldSpHl : Statement .ldSpHl := by
  exact ⟨rfl, Nat.le_of_ble_eq_true rfl⟩

theorem exAtSpHl : Statement .exAtSpHl := by
  exact ⟨rfl, Nat.le_of_ble_eq_true rfl⟩

theorem exDeHl : Statement .exDeHl := by
  exact ⟨rfl, Nat.le_of_ble_eq_true rfl⟩

theorem di : Statement .di := by
  exact ⟨rfl, Nat.le_of_ble_eq_true rfl⟩

theorem ei : Statement .ei := by
  exact ⟨rfl, Nat.le_of_ble_eq_true rfl⟩

theorem jpCcNn (cc : Cond) (nn : Word) : Statement (.jpCcNn cc nn) := by
  cases cc <;> exact ⟨rfl, Nat.le_of_ble_eq_true rfl⟩

theorem jpNn (nn : Word) : Statement (.jpNn nn) := by
  exact ⟨rfl, Nat.le_of_ble_eq_true rfl⟩

theorem outAtNA (n : Byte) : Statement (.outAtNA n) := by
  exact ⟨rfl, Nat.le_of_ble_eq_true rfl⟩

theorem inAAtN (n : Byte) : Statement (.inAAtN n) := by
  exact ⟨rfl, Nat.le_of_ble_eq_true rfl⟩

theorem callCcNn (cc : Cond) (nn : Word) : Statement (.callCcNn cc nn) := by
  cases cc <;> exact ⟨rfl, Nat.le_of_ble_eq_true rfl⟩

theorem pushRp2 (rp : Rp2) : Statement (.pushRp2 rp) := by
  exact ⟨rfl, Nat.le_of_ble_eq_true rfl⟩

theorem callNn (nn : Word) : Statement (.callNn nn) := by
  exact ⟨rfl, Nat.le_of_ble_eq_true rfl⟩

theorem rst (p : BitVec 3) : Statement (.rst p) := by
  exact ⟨rfl, Nat.le_of_ble_eq_true rfl⟩

theorem prefixCb : Statement .prefixCb := by
  exact ⟨rfl, Nat.le_of_ble_eq_true rfl⟩

theorem prefixEd : Statement .prefixEd := by
  exact ⟨rfl, Nat.le_of_ble_eq_true rfl⟩

theorem prefixXy (xy : IndexReg) : Statement (.prefixXy xy) := by
  cases xy <;> exact ⟨rfl, Nat.le_of_ble_eq_true rfl⟩

theorem rlcR (r : Reg8) : Statement (.rlcR r) := by
  exact ⟨rfl, Nat.le_of_ble_eq_true rfl⟩

theorem rlcAtHl : Statement .rlcAtHl := by
  exact ⟨rfl, Nat.le_of_ble_eq_true rfl⟩

theorem rrcR (r : Reg8) : Statement (.rrcR r) := by
  exact ⟨rfl, Nat.le_of_ble_eq_true rfl⟩

theorem rrcAtHl : Statement .rrcAtHl := by
  exact ⟨rfl, Nat.le_of_ble_eq_true rfl⟩

theorem rlR (r : Reg8) : Statement (.rlR r) := by
  exact ⟨rfl, Nat.le_of_ble_eq_true rfl⟩

theorem rlAtHl : Statement .rlAtHl := by
  exact ⟨rfl, Nat.le_of_ble_eq_true rfl⟩

theorem rrR (r : Reg8) : Statement (.rrR r) := by
  exact ⟨rfl, Nat.le_of_ble_eq_true rfl⟩

theorem rrAtHl : Statement .rrAtHl := by
  exact ⟨rfl, Nat.le_of_ble_eq_true rfl⟩

theorem slaR (r : Reg8) : Statement (.slaR r) := by
  exact ⟨rfl, Nat.le_of_ble_eq_true rfl⟩

theorem slaAtHl : Statement .slaAtHl := by
  exact ⟨rfl, Nat.le_of_ble_eq_true rfl⟩

theorem sraR (r : Reg8) : Statement (.sraR r) := by
  exact ⟨rfl, Nat.le_of_ble_eq_true rfl⟩

theorem sraAtHl : Statement .sraAtHl := by
  exact ⟨rfl, Nat.le_of_ble_eq_true rfl⟩

theorem sllR (r : Reg8) : Statement (.sllR r) := by
  exact ⟨rfl, Nat.le_of_ble_eq_true rfl⟩

theorem sllAtHl : Statement .sllAtHl := by
  exact ⟨rfl, Nat.le_of_ble_eq_true rfl⟩

theorem srlR (r : Reg8) : Statement (.srlR r) := by
  exact ⟨rfl, Nat.le_of_ble_eq_true rfl⟩

theorem srlAtHl : Statement .srlAtHl := by
  exact ⟨rfl, Nat.le_of_ble_eq_true rfl⟩

theorem bitR (b : BitVec 3) (r : Reg8) : Statement (.bitR b r) := by
  exact ⟨rfl, Nat.le_of_ble_eq_true rfl⟩

theorem bitAtHl (b : BitVec 3) : Statement (.bitAtHl b) := by
  exact ⟨rfl, Nat.le_of_ble_eq_true rfl⟩

theorem resR (b : BitVec 3) (r : Reg8) : Statement (.resR b r) := by
  exact ⟨rfl, Nat.le_of_ble_eq_true rfl⟩

theorem resAtHl (b : BitVec 3) : Statement (.resAtHl b) := by
  exact ⟨rfl, Nat.le_of_ble_eq_true rfl⟩

theorem setR (b : BitVec 3) (r : Reg8) : Statement (.setR b r) := by
  exact ⟨rfl, Nat.le_of_ble_eq_true rfl⟩

theorem setAtHl (b : BitVec 3) : Statement (.setAtHl b) := by
  exact ⟨rfl, Nat.le_of_ble_eq_true rfl⟩

theorem inRC (r : Reg8) : Statement (.inRC r) := by
  exact ⟨rfl, Nat.le_of_ble_eq_true rfl⟩

theorem inC : Statement .inC := by
  exact ⟨rfl, Nat.le_of_ble_eq_true rfl⟩

theorem outCR (r : Reg8) : Statement (.outCR r) := by
  exact ⟨rfl, Nat.le_of_ble_eq_true rfl⟩

theorem outC0 : Statement .outC0 := by
  exact ⟨rfl, Nat.le_of_ble_eq_true rfl⟩

theorem sbcHlRp (rp : Rp) : Statement (.sbcHlRp rp) := by
  exact ⟨rfl, Nat.le_of_ble_eq_true rfl⟩

theorem adcHlRp (rp : Rp) : Statement (.adcHlRp rp) := by
  exact ⟨rfl, Nat.le_of_ble_eq_true rfl⟩

theorem ldAtNnRp (rp : Rp) (nn : Word) : Statement (.ldAtNnRp rp nn) := by
  exact ⟨rfl, Nat.le_of_ble_eq_true rfl⟩

theorem ldRpAtNn (rp : Rp) (nn : Word) : Statement (.ldRpAtNn rp nn) := by
  exact ⟨rfl, Nat.le_of_ble_eq_true rfl⟩

theorem neg (dup : BitVec 3) : Statement (.neg dup) := by
  exact ⟨rfl, Nat.le_of_ble_eq_true rfl⟩

theorem reti : Statement .reti := by
  exact ⟨rfl, Nat.le_of_ble_eq_true rfl⟩

theorem retn (dup : BitVec 3) : Statement (.retn dup) := by
  exact ⟨rfl, Nat.le_of_ble_eq_true rfl⟩

theorem im0 (dup : BitVec 2) : Statement (.im0 dup) := by
  exact ⟨rfl, Nat.le_of_ble_eq_true rfl⟩

theorem im1 (dup : BitVec 1) : Statement (.im1 dup) := by
  exact ⟨rfl, Nat.le_of_ble_eq_true rfl⟩

theorem im2 (dup : BitVec 1) : Statement (.im2 dup) := by
  exact ⟨rfl, Nat.le_of_ble_eq_true rfl⟩

theorem ldIA : Statement .ldIA := by
  exact ⟨rfl, Nat.le_of_ble_eq_true rfl⟩

theorem ldRA : Statement .ldRA := by
  exact ⟨rfl, Nat.le_of_ble_eq_true rfl⟩

theorem ldAI : Statement .ldAI := by
  exact ⟨rfl, Nat.le_of_ble_eq_true rfl⟩

theorem ldAR : Statement .ldAR := by
  exact ⟨rfl, Nat.le_of_ble_eq_true rfl⟩

theorem rrd : Statement .rrd := by
  exact ⟨rfl, Nat.le_of_ble_eq_true rfl⟩

theorem rld : Statement .rld := by
  exact ⟨rfl, Nat.le_of_ble_eq_true rfl⟩

theorem ldi : Statement .ldi := by
  exact ⟨rfl, Nat.le_of_ble_eq_true rfl⟩

theorem cpi : Statement .cpi := by
  exact ⟨rfl, Nat.le_of_ble_eq_true rfl⟩

theorem ini : Statement .ini := by
  exact ⟨rfl, Nat.le_of_ble_eq_true rfl⟩

theorem outi : Statement .outi := by
  exact ⟨rfl, Nat.le_of_ble_eq_true rfl⟩

theorem ldd : Statement .ldd := by
  exact ⟨rfl, Nat.le_of_ble_eq_true rfl⟩

theorem cpd : Statement .cpd := by
  exact ⟨rfl, Nat.le_of_ble_eq_true rfl⟩

theorem ind : Statement .ind := by
  exact ⟨rfl, Nat.le_of_ble_eq_true rfl⟩

theorem outd : Statement .outd := by
  exact ⟨rfl, Nat.le_of_ble_eq_true rfl⟩

theorem ldir : Statement .ldir := by
  exact ⟨rfl, Nat.le_of_ble_eq_true rfl⟩

theorem cpir : Statement .cpir := by
  exact ⟨rfl, Nat.le_of_ble_eq_true rfl⟩

theorem inir : Statement .inir := by
  exact ⟨rfl, Nat.le_of_ble_eq_true rfl⟩

theorem otir : Statement .otir := by
  exact ⟨rfl, Nat.le_of_ble_eq_true rfl⟩

theorem lddr : Statement .lddr := by
  exact ⟨rfl, Nat.le_of_ble_eq_true rfl⟩

theorem cpdr : Statement .cpdr := by
  exact ⟨rfl, Nat.le_of_ble_eq_true rfl⟩

theorem indr : Statement .indr := by
  exact ⟨rfl, Nat.le_of_ble_eq_true rfl⟩

theorem otdr : Statement .otdr := by
  exact ⟨rfl, Nat.le_of_ble_eq_true rfl⟩

theorem nopEd (op : Byte) : Statement (.nopEd op) := by
  exact ⟨rfl, Nat.le_of_ble_eq_true rfl⟩

theorem addXyRp (xy : IndexReg) (rp : RpXy) : Statement (.addXyRp xy rp) := by
  cases xy <;> exact ⟨rfl, Nat.le_of_ble_eq_true rfl⟩

theorem ldXyNn (xy : IndexReg) (nn : Word) : Statement (.ldXyNn xy nn) := by
  cases xy <;> exact ⟨rfl, Nat.le_of_ble_eq_true rfl⟩

theorem ldAtNnXy (xy : IndexReg) (nn : Word) : Statement (.ldAtNnXy xy nn) := by
  cases xy <;> exact ⟨rfl, Nat.le_of_ble_eq_true rfl⟩

theorem ldXyAtNn (xy : IndexReg) (nn : Word) : Statement (.ldXyAtNn xy nn) := by
  cases xy <;> exact ⟨rfl, Nat.le_of_ble_eq_true rfl⟩

theorem incXy (xy : IndexReg) : Statement (.incXy xy) := by
  cases xy <;> exact ⟨rfl, Nat.le_of_ble_eq_true rfl⟩

theorem decXy (xy : IndexReg) : Statement (.decXy xy) := by
  cases xy <;> exact ⟨rfl, Nat.le_of_ble_eq_true rfl⟩

theorem incXyHalf (xy : IndexReg) (half : Half) : Statement (.incXyHalf xy half) := by
  cases xy <;> exact ⟨rfl, Nat.le_of_ble_eq_true rfl⟩

theorem decXyHalf (xy : IndexReg) (half : Half) : Statement (.decXyHalf xy half) := by
  cases xy <;> exact ⟨rfl, Nat.le_of_ble_eq_true rfl⟩

theorem ldXyHalfN (xy : IndexReg) (half : Half) (n : Byte) : Statement (.ldXyHalfN xy half n) := by
  cases xy <;> exact ⟨rfl, Nat.le_of_ble_eq_true rfl⟩

theorem incAtXyD (xy : IndexReg) (d : Byte) : Statement (.incAtXyD xy d) := by
  cases xy <;> exact ⟨rfl, Nat.le_of_ble_eq_true rfl⟩

theorem decAtXyD (xy : IndexReg) (d : Byte) : Statement (.decAtXyD xy d) := by
  cases xy <;> exact ⟨rfl, Nat.le_of_ble_eq_true rfl⟩

theorem ldAtXyDN (xy : IndexReg) (d : Byte) (n : Byte) : Statement (.ldAtXyDN xy d n) := by
  cases xy <;> exact ⟨rfl, Nat.le_of_ble_eq_true rfl⟩

theorem ldRAtXyD (xy : IndexReg) (r : Reg8) (d : Byte) : Statement (.ldRAtXyD xy r d) := by
  cases xy <;> exact ⟨rfl, Nat.le_of_ble_eq_true rfl⟩

theorem ldAtXyDR (xy : IndexReg) (d : Byte) (r : Reg8) : Statement (.ldAtXyDR xy d r) := by
  cases xy <;> exact ⟨rfl, Nat.le_of_ble_eq_true rfl⟩

theorem ldRXyHalf (xy : IndexReg) (r : Reg8) (half : Half) : Statement (.ldRXyHalf xy r half) := by
  cases xy <;> exact ⟨rfl, Nat.le_of_ble_eq_true rfl⟩

theorem ldXyHalfR (xy : IndexReg) (half : Half) (src : RegXy) : Statement (.ldXyHalfR xy half src) := by
  cases xy <;> exact ⟨rfl, Nat.le_of_ble_eq_true rfl⟩

theorem addAAtXyD (xy : IndexReg) (d : Byte) : Statement (.addAAtXyD xy d) := by
  cases xy <;> exact ⟨rfl, Nat.le_of_ble_eq_true rfl⟩

theorem addAXyHalf (xy : IndexReg) (half : Half) : Statement (.addAXyHalf xy half) := by
  cases xy <;> exact ⟨rfl, Nat.le_of_ble_eq_true rfl⟩

theorem adcAAtXyD (xy : IndexReg) (d : Byte) : Statement (.adcAAtXyD xy d) := by
  cases xy <;> exact ⟨rfl, Nat.le_of_ble_eq_true rfl⟩

theorem adcAXyHalf (xy : IndexReg) (half : Half) : Statement (.adcAXyHalf xy half) := by
  cases xy <;> exact ⟨rfl, Nat.le_of_ble_eq_true rfl⟩

theorem subAtXyD (xy : IndexReg) (d : Byte) : Statement (.subAtXyD xy d) := by
  cases xy <;> exact ⟨rfl, Nat.le_of_ble_eq_true rfl⟩

theorem subXyHalf (xy : IndexReg) (half : Half) : Statement (.subXyHalf xy half) := by
  cases xy <;> exact ⟨rfl, Nat.le_of_ble_eq_true rfl⟩

theorem sbcAAtXyD (xy : IndexReg) (d : Byte) : Statement (.sbcAAtXyD xy d) := by
  cases xy <;> exact ⟨rfl, Nat.le_of_ble_eq_true rfl⟩

theorem sbcAXyHalf (xy : IndexReg) (half : Half) : Statement (.sbcAXyHalf xy half) := by
  cases xy <;> exact ⟨rfl, Nat.le_of_ble_eq_true rfl⟩

theorem andAtXyD (xy : IndexReg) (d : Byte) : Statement (.andAtXyD xy d) := by
  cases xy <;> exact ⟨rfl, Nat.le_of_ble_eq_true rfl⟩

theorem andXyHalf (xy : IndexReg) (half : Half) : Statement (.andXyHalf xy half) := by
  cases xy <;> exact ⟨rfl, Nat.le_of_ble_eq_true rfl⟩

theorem xorAtXyD (xy : IndexReg) (d : Byte) : Statement (.xorAtXyD xy d) := by
  cases xy <;> exact ⟨rfl, Nat.le_of_ble_eq_true rfl⟩

theorem xorXyHalf (xy : IndexReg) (half : Half) : Statement (.xorXyHalf xy half) := by
  cases xy <;> exact ⟨rfl, Nat.le_of_ble_eq_true rfl⟩

theorem orAtXyD (xy : IndexReg) (d : Byte) : Statement (.orAtXyD xy d) := by
  cases xy <;> exact ⟨rfl, Nat.le_of_ble_eq_true rfl⟩

theorem orXyHalf (xy : IndexReg) (half : Half) : Statement (.orXyHalf xy half) := by
  cases xy <;> exact ⟨rfl, Nat.le_of_ble_eq_true rfl⟩

theorem cpAtXyD (xy : IndexReg) (d : Byte) : Statement (.cpAtXyD xy d) := by
  cases xy <;> exact ⟨rfl, Nat.le_of_ble_eq_true rfl⟩

theorem cpXyHalf (xy : IndexReg) (half : Half) : Statement (.cpXyHalf xy half) := by
  cases xy <;> exact ⟨rfl, Nat.le_of_ble_eq_true rfl⟩

theorem popXy (xy : IndexReg) : Statement (.popXy xy) := by
  cases xy <;> exact ⟨rfl, Nat.le_of_ble_eq_true rfl⟩

theorem exAtSpXy (xy : IndexReg) : Statement (.exAtSpXy xy) := by
  cases xy <;> exact ⟨rfl, Nat.le_of_ble_eq_true rfl⟩

theorem pushXy (xy : IndexReg) : Statement (.pushXy xy) := by
  cases xy <;> exact ⟨rfl, Nat.le_of_ble_eq_true rfl⟩

theorem jpXy (xy : IndexReg) : Statement (.jpXy xy) := by
  cases xy <;> exact ⟨rfl, Nat.le_of_ble_eq_true rfl⟩

theorem ldSpXy (xy : IndexReg) : Statement (.ldSpXy xy) := by
  cases xy <;> exact ⟨rfl, Nat.le_of_ble_eq_true rfl⟩

theorem prefixChain (xy : IndexReg) (second : IndexReg) : Statement (.prefixChain xy second) := by
  cases xy <;> exact ⟨rfl, Nat.le_of_ble_eq_true rfl⟩

theorem prefixEdAfterXy (xy : IndexReg) : Statement (.prefixEdAfterXy xy) := by
  cases xy <;> exact ⟨rfl, Nat.le_of_ble_eq_true rfl⟩

theorem prefixCbAfterXy (xy : IndexReg) : Statement (.prefixCbAfterXy xy) := by
  cases xy <;> exact ⟨rfl, Nat.le_of_ble_eq_true rfl⟩

theorem fallbackXy (xy : IndexReg) (op : Byte) : Statement (.fallbackXy xy op) := by
  cases xy <;> exact ⟨rfl, Nat.le_of_ble_eq_true rfl⟩

theorem rlcAtXyD (xy : IndexReg) (d : Byte) : Statement (.rlcAtXyD xy d) := by
  cases xy <;> exact ⟨rfl, Nat.le_of_ble_eq_true rfl⟩

theorem rlcAtXyDR (xy : IndexReg) (d : Byte) (r : Reg8) : Statement (.rlcAtXyDR xy d r) := by
  cases xy <;> exact ⟨rfl, Nat.le_of_ble_eq_true rfl⟩

theorem rrcAtXyD (xy : IndexReg) (d : Byte) : Statement (.rrcAtXyD xy d) := by
  cases xy <;> exact ⟨rfl, Nat.le_of_ble_eq_true rfl⟩

theorem rrcAtXyDR (xy : IndexReg) (d : Byte) (r : Reg8) : Statement (.rrcAtXyDR xy d r) := by
  cases xy <;> exact ⟨rfl, Nat.le_of_ble_eq_true rfl⟩

theorem rlAtXyD (xy : IndexReg) (d : Byte) : Statement (.rlAtXyD xy d) := by
  cases xy <;> exact ⟨rfl, Nat.le_of_ble_eq_true rfl⟩

theorem rlAtXyDR (xy : IndexReg) (d : Byte) (r : Reg8) : Statement (.rlAtXyDR xy d r) := by
  cases xy <;> exact ⟨rfl, Nat.le_of_ble_eq_true rfl⟩

theorem rrAtXyD (xy : IndexReg) (d : Byte) : Statement (.rrAtXyD xy d) := by
  cases xy <;> exact ⟨rfl, Nat.le_of_ble_eq_true rfl⟩

theorem rrAtXyDR (xy : IndexReg) (d : Byte) (r : Reg8) : Statement (.rrAtXyDR xy d r) := by
  cases xy <;> exact ⟨rfl, Nat.le_of_ble_eq_true rfl⟩

theorem slaAtXyD (xy : IndexReg) (d : Byte) : Statement (.slaAtXyD xy d) := by
  cases xy <;> exact ⟨rfl, Nat.le_of_ble_eq_true rfl⟩

theorem slaAtXyDR (xy : IndexReg) (d : Byte) (r : Reg8) : Statement (.slaAtXyDR xy d r) := by
  cases xy <;> exact ⟨rfl, Nat.le_of_ble_eq_true rfl⟩

theorem sraAtXyD (xy : IndexReg) (d : Byte) : Statement (.sraAtXyD xy d) := by
  cases xy <;> exact ⟨rfl, Nat.le_of_ble_eq_true rfl⟩

theorem sraAtXyDR (xy : IndexReg) (d : Byte) (r : Reg8) : Statement (.sraAtXyDR xy d r) := by
  cases xy <;> exact ⟨rfl, Nat.le_of_ble_eq_true rfl⟩

theorem sllAtXyD (xy : IndexReg) (d : Byte) : Statement (.sllAtXyD xy d) := by
  cases xy <;> exact ⟨rfl, Nat.le_of_ble_eq_true rfl⟩

theorem sllAtXyDR (xy : IndexReg) (d : Byte) (r : Reg8) : Statement (.sllAtXyDR xy d r) := by
  cases xy <;> exact ⟨rfl, Nat.le_of_ble_eq_true rfl⟩

theorem srlAtXyD (xy : IndexReg) (d : Byte) : Statement (.srlAtXyD xy d) := by
  cases xy <;> exact ⟨rfl, Nat.le_of_ble_eq_true rfl⟩

theorem srlAtXyDR (xy : IndexReg) (d : Byte) (r : Reg8) : Statement (.srlAtXyDR xy d r) := by
  cases xy <;> exact ⟨rfl, Nat.le_of_ble_eq_true rfl⟩

theorem bitAtXyD (xy : IndexReg) (d : Byte) (b : BitVec 3) (dup : BitVec 3) : Statement (.bitAtXyD xy d b dup) := by
  cases xy <;> exact ⟨rfl, Nat.le_of_ble_eq_true rfl⟩

theorem resAtXyD (xy : IndexReg) (d : Byte) (b : BitVec 3) : Statement (.resAtXyD xy d b) := by
  cases xy <;> exact ⟨rfl, Nat.le_of_ble_eq_true rfl⟩

theorem resAtXyDR (xy : IndexReg) (d : Byte) (b : BitVec 3) (r : Reg8) : Statement (.resAtXyDR xy d b r) := by
  cases xy <;> exact ⟨rfl, Nat.le_of_ble_eq_true rfl⟩

theorem setAtXyD (xy : IndexReg) (d : Byte) (b : BitVec 3) : Statement (.setAtXyD xy d b) := by
  cases xy <;> exact ⟨rfl, Nat.le_of_ble_eq_true rfl⟩

theorem setAtXyDR (xy : IndexReg) (d : Byte) (b : BitVec 3) (r : Reg8) : Statement (.setAtXyDR xy d b r) := by
  cases xy <;> exact ⟨rfl, Nat.le_of_ble_eq_true rfl⟩

end Sys2Proof.Laws.EncodeLength
end

