-- ==== Sys2Proof/Tests/Slice0.lean ====
section
/-! SUPPORT. The model's own tests: WellFormed refusals, decoding of words written from the tables of 30_encoding.md,
single steps from the vectors of 95_test_vectors.md, the host's two entry points, and a witness for every obligation with
hypotheses. -/

namespace Sys2Proof.Tests
open Sys2Proof Sys2Proof.Machine Sys2Proof.Machine.Claim

/-- The state the vectors start from: zero registers but SP 0xFF00, PC 0x0100 and MEMPTR 0xA5A5. -/
def base : State :=
  { State.reset with
    a := 0x00#8, f := 0x00#8, b := 0x00#8, c := 0x00#8, d := 0x00#8, e := 0x00#8, h := 0x00#8, l := 0x00#8
    altA := 0x00#8, altF := 0x00#8, altB := 0x00#8, altC := 0x00#8, altD := 0x00#8, altE := 0x00#8
    altH := 0x00#8, altL := 0x00#8
    ix := 0x0000#16, iy := 0x0000#16, sp := 0xFF00#16, pc := 0x0100#16, memptr := 0xA5A5#16 }

/-- Whether one step answers a next state that passes the check. -/
def afterStep (s : State) (p : State → Bool) : Bool :=
  match step s with
  | .next t => p t
  | .fault _ => false
  | .refused _ => false

/-- The fault of one step, if any. -/
def faultOf (s : State) : Option Fault :=
  match step s with
  | .next _ => none
  | .fault r => some r
  | .refused _ => none

/-- Whether every word decodes to its instruction, with no byte left. -/
def decodesAll (rows : List (List Byte × Instr)) : Bool :=
  rows.all fun (bytes, i) =>
    match decode bytes with
    | .ok (j, rest) => j == i && rest.isEmpty
    | .error _ => false

/-! ## WellFormed: each check refuses a term that is no instruction -/

theorem wf_refuses_jr_on_parity : (Instr.jrCc .po 0x00#8).wf = false ∧ (Instr.jrCc .pe 0x00#8).wf = false := by decide

theorem wf_refuses_jr_on_sign : (Instr.jrCc .p 0x00#8).wf = false ∧ (Instr.jrCc .m 0x00#8).wf = false := by decide

theorem wf_refuses_h_and_l_from_a_half :
    (Instr.ldRXyHalf .ix .h .high).wf = false ∧ (Instr.ldRXyHalf .iy .l .low).wf = false := by decide

theorem wf_refuses_retn_at_the_word_of_reti : (Instr.retn 1#3).wf = false := by decide

theorem wf_refuses_an_assigned_ed_no_operation : (Instr.nopEd 0x40#8).wf = false ∧ (Instr.nopEd 0xA0#8).wf = false := by decide

theorem wf_refuses_a_fallback_of_an_index_cell :
    (Instr.fallbackXy .ix 0x21#8).wf = false ∧ (Instr.fallbackXy .ix 0xCB#8).wf = false := by decide

/-! ## Decoding: every row of opcode_table.json, its word written out from the row's format -/

/-- Words of the main table (30_encoding.md R150), the fields put in by the row's format. -/
theorem decodes_main_1 : decodesAll [
    ([0x00#8], .nop),
    ([0x08#8], .exAfAf),
    ([0x10#8, 0x05#8], .djnz 0x05#8),
    ([0x18#8, 0xFB#8], .jr 0xFB#8),
    ([0x30#8, 0x80#8], .jrCc .nc 0x80#8),
    ([0x21#8, 0x34#8, 0x12#8], .ldRpNn .hl 0x1234#16),
    ([0x19#8], .addHlRp .de),
    ([0x02#8], .ldAtBcA),
    ([0x12#8], .ldAtDeA),
    ([0x22#8, 0x01#8, 0xFE#8], .ldAtNnHl 0xFE01#16),
    ([0x32#8, 0xA7#8, 0x80#8], .ldAtNnA 0x80A7#16),
    ([0x0A#8], .ldAAtBc),
    ([0x1A#8], .ldAAtDe),
    ([0x2A#8, 0x34#8, 0x12#8], .ldHlAtNn 0x1234#16),
    ([0x3A#8, 0x01#8, 0xFE#8], .ldAAtNn 0xFE01#16),
    ([0x33#8], .incRp .sp),
    ([0x0B#8], .decRp .bc),
    ([0x2C#8], .incR .l),
    ([0x34#8], .incAtHl),
    ([0x15#8], .decR .d),
    ([0x35#8], .decAtHl),
    ([0x3E#8, 0x7F#8], .ldRN .a 0x7F#8),
    ([0x36#8, 0xC3#8], .ldAtHlN 0xC3#8),
    ([0x07#8], .rlca)] = true := by decide

/-- Words of the main table (30_encoding.md R150), the fields put in by the row's format. -/
theorem decodes_main_2 : decodesAll [
    ([0x0F#8], .rrca),
    ([0x17#8], .rla),
    ([0x1F#8], .rra),
    ([0x27#8], .daa),
    ([0x2F#8], .cpl),
    ([0x37#8], .scf),
    ([0x3F#8], .ccf),
    ([0x76#8], .halt),
    ([0x46#8], .ldRAtHl .b),
    ([0x75#8], .ldAtHlR .l),
    ([0x5D#8], .ldRR .e .l),
    ([0x82#8], .addAR .d),
    ([0x86#8], .addAAtHl),
    ([0xC6#8, 0x05#8], .addAN 0x05#8),
    ([0x8F#8], .adcAR .a),
    ([0x8E#8], .adcAAtHl),
    ([0xCE#8, 0xFB#8], .adcAN 0xFB#8),
    ([0x90#8], .subR .b),
    ([0x96#8], .subAtHl),
    ([0xD6#8, 0x80#8], .subN 0x80#8),
    ([0x9B#8], .sbcAR .e),
    ([0x9E#8], .sbcAAtHl),
    ([0xDE#8, 0x7F#8], .sbcAN 0x7F#8),
    ([0xA1#8], .andR .c)] = true := by decide

/-- Words of the main table (30_encoding.md R150), the fields put in by the row's format. -/
theorem decodes_main_3 : decodesAll [
    ([0xA6#8], .andAtHl),
    ([0xE6#8, 0xC3#8], .andN 0xC3#8),
    ([0xAC#8], .xorR .h),
    ([0xAE#8], .xorAtHl),
    ([0xEE#8, 0x05#8], .xorN 0x05#8),
    ([0xB5#8], .orR .l),
    ([0xB6#8], .orAtHl),
    ([0xF6#8, 0xFB#8], .orN 0xFB#8),
    ([0xBA#8], .cpR .d),
    ([0xBE#8], .cpAtHl),
    ([0xFE#8, 0x80#8], .cpN 0x80#8),
    ([0xE8#8], .retCc .pe),
    ([0xE1#8], .popRp2 .hl),
    ([0xC9#8], .ret),
    ([0xD9#8], .exx),
    ([0xE9#8], .jpHl),
    ([0xF9#8], .ldSpHl),
    ([0xE3#8], .exAtSpHl),
    ([0xEB#8], .exDeHl),
    ([0xF3#8], .di),
    ([0xFB#8], .ei),
    ([0xD2#8, 0xA7#8, 0x80#8], .jpCcNn .nc 0x80A7#16),
    ([0xC3#8, 0x34#8, 0x12#8], .jpNn 0x1234#16),
    ([0xD3#8, 0x7F#8], .outAtNA 0x7F#8)] = true := by decide

/-- Words of the main table (30_encoding.md R150), the fields put in by the row's format. -/
theorem decodes_main_4 : decodesAll [
    ([0xDB#8, 0xC3#8], .inAAtN 0xC3#8),
    ([0xFC#8, 0x01#8, 0xFE#8], .callCcNn .m 0xFE01#16),
    ([0xD5#8], .pushRp2 .de),
    ([0xCD#8, 0xA7#8, 0x80#8], .callNn 0x80A7#16),
    ([0xEF#8], .rst 5#3),
    ([0xCB#8], .prefixCb),
    ([0xED#8], .prefixEd),
    ([0xDD#8], .prefixXy .ix)] = true := by decide

/-- Words of the CB table (30_encoding.md R151), the fields put in by the row's format. -/
theorem decodes_cb_1 : decodesAll [
    ([0xCB#8, 0x05#8], .rlcR .l),
    ([0xCB#8, 0x06#8], .rlcAtHl),
    ([0xCB#8, 0x0A#8], .rrcR .d),
    ([0xCB#8, 0x0E#8], .rrcAtHl),
    ([0xCB#8, 0x17#8], .rlR .a),
    ([0xCB#8, 0x16#8], .rlAtHl),
    ([0xCB#8, 0x18#8], .rrR .b),
    ([0xCB#8, 0x1E#8], .rrAtHl),
    ([0xCB#8, 0x23#8], .slaR .e),
    ([0xCB#8, 0x26#8], .slaAtHl),
    ([0xCB#8, 0x29#8], .sraR .c),
    ([0xCB#8, 0x2E#8], .sraAtHl),
    ([0xCB#8, 0x34#8], .sllR .h),
    ([0xCB#8, 0x36#8], .sllAtHl),
    ([0xCB#8, 0x3D#8], .srlR .l),
    ([0xCB#8, 0x3E#8], .srlAtHl),
    ([0xCB#8, 0x6A#8], .bitR 5#3 .d),
    ([0xCB#8, 0x56#8], .bitAtHl 2#3),
    ([0xCB#8, 0xBF#8], .resR 7#3 .a),
    ([0xCB#8, 0x86#8], .resAtHl 0#3),
    ([0xCB#8, 0xD8#8], .setR 3#3 .b),
    ([0xCB#8, 0xCE#8], .setAtHl 1#3)] = true := by decide

/-- Words of the ED table (30_encoding.md R152), the fields put in by the row's format. -/
theorem decodes_ed_1 : decodesAll [
    ([0xED#8, 0x68#8], .inRC .l),
    ([0xED#8, 0x70#8], .inC),
    ([0xED#8, 0x51#8], .outCR .d),
    ([0xED#8, 0x71#8], .outC0),
    ([0xED#8, 0x62#8], .sbcHlRp .hl),
    ([0xED#8, 0x5A#8], .adcHlRp .de),
    ([0xED#8, 0x73#8, 0x34#8, 0x12#8], .ldAtNnRp .sp 0x1234#16),
    ([0xED#8, 0x4B#8, 0x01#8, 0xFE#8], .ldRpAtNn .bc 0xFE01#16),
    ([0xED#8, 0x6C#8], .neg 5#3),
    ([0xED#8, 0x4D#8], .reti),
    ([0xED#8, 0x6D#8], .retn 5#3),
    ([0xED#8, 0x66#8], .im0 2#2),
    ([0xED#8, 0x76#8], .im1 1#1),
    ([0xED#8, 0x5E#8], .im2 0#1),
    ([0xED#8, 0x47#8], .ldIA),
    ([0xED#8, 0x4F#8], .ldRA),
    ([0xED#8, 0x57#8], .ldAI),
    ([0xED#8, 0x5F#8], .ldAR),
    ([0xED#8, 0x67#8], .rrd),
    ([0xED#8, 0x6F#8], .rld),
    ([0xED#8, 0xA0#8], .ldi),
    ([0xED#8, 0xA1#8], .cpi),
    ([0xED#8, 0xA2#8], .ini),
    ([0xED#8, 0xA3#8], .outi)] = true := by decide

/-- Words of the ED table (30_encoding.md R152), the fields put in by the row's format. -/
theorem decodes_ed_2 : decodesAll [
    ([0xED#8, 0xA8#8], .ldd),
    ([0xED#8, 0xA9#8], .cpd),
    ([0xED#8, 0xAA#8], .ind),
    ([0xED#8, 0xAB#8], .outd),
    ([0xED#8, 0xB0#8], .ldir),
    ([0xED#8, 0xB1#8], .cpir),
    ([0xED#8, 0xB2#8], .inir),
    ([0xED#8, 0xB3#8], .otir),
    ([0xED#8, 0xB8#8], .lddr),
    ([0xED#8, 0xB9#8], .cpdr),
    ([0xED#8, 0xBA#8], .indr),
    ([0xED#8, 0xBB#8], .otdr),
    ([0xED#8, 0x3D#8], .nopEd 0x3D#8),
    ([0xED#8, 0xFD#8], .nopEd 0xFD#8),
    ([0xED#8, 0x9D#8], .nopEd 0x9D#8),
    ([0xED#8, 0xBD#8], .nopEd 0xBD#8),
    ([0xED#8, 0x77#8], .nopEd 0x77#8),
    ([0xED#8, 0x7F#8], .nopEd 0x7F#8)] = true := by decide

/-- Words of the DD/FD table (30_encoding.md R153), the fields put in by the row's format. -/
theorem decodes_index_1 : decodesAll [
    ([0xFD#8, 0x29#8], .addXyRp .iy .xy),
    ([0xFD#8, 0x21#8, 0xA7#8, 0x80#8], .ldXyNn .iy 0x80A7#16),
    ([0xDD#8, 0x22#8, 0x34#8, 0x12#8], .ldAtNnXy .ix 0x1234#16),
    ([0xFD#8, 0x2A#8, 0x01#8, 0xFE#8], .ldXyAtNn .iy 0xFE01#16),
    ([0xFD#8, 0x23#8], .incXy .iy),
    ([0xDD#8, 0x2B#8], .decXy .ix),
    ([0xFD#8, 0x2C#8], .incXyHalf .iy .low),
    ([0xFD#8, 0x25#8], .decXyHalf .iy .high),
    ([0xDD#8, 0x2E#8, 0x05#8], .ldXyHalfN .ix .low 0x05#8),
    ([0xFD#8, 0x34#8, 0xFB#8], .incAtXyD .iy 0xFB#8),
    ([0xFD#8, 0x35#8, 0x80#8], .decAtXyD .iy 0x80#8),
    ([0xDD#8, 0x36#8, 0x7F#8, 0xC3#8], .ldAtXyDN .ix 0x7F#8 0xC3#8),
    ([0xFD#8, 0x7E#8, 0x05#8], .ldRAtXyD .iy .a 0x05#8),
    ([0xFD#8, 0x73#8, 0xFB#8], .ldAtXyDR .iy 0xFB#8 .e),
    ([0xDD#8, 0x55#8], .ldRXyHalf .ix .d .low),
    ([0xFD#8, 0x65#8], .ldXyHalfR .iy .high .xyl),
    ([0xFD#8, 0x86#8, 0x80#8], .addAAtXyD .iy 0x80#8),
    ([0xDD#8, 0x84#8], .addAXyHalf .ix .high),
    ([0xFD#8, 0x8E#8, 0x7F#8], .adcAAtXyD .iy 0x7F#8),
    ([0xFD#8, 0x8D#8], .adcAXyHalf .iy .low),
    ([0xDD#8, 0x96#8, 0xC3#8], .subAtXyD .ix 0xC3#8),
    ([0xFD#8, 0x94#8], .subXyHalf .iy .high),
    ([0xFD#8, 0x9E#8, 0x05#8], .sbcAAtXyD .iy 0x05#8),
    ([0xDD#8, 0x9D#8], .sbcAXyHalf .ix .low)] = true := by decide

/-- Words of the DD/FD table (30_encoding.md R153), the fields put in by the row's format. -/
theorem decodes_index_2 : decodesAll [
    ([0xFD#8, 0xA6#8, 0xFB#8], .andAtXyD .iy 0xFB#8),
    ([0xFD#8, 0xA4#8], .andXyHalf .iy .high),
    ([0xDD#8, 0xAE#8, 0x80#8], .xorAtXyD .ix 0x80#8),
    ([0xFD#8, 0xAD#8], .xorXyHalf .iy .low),
    ([0xFD#8, 0xB6#8, 0x7F#8], .orAtXyD .iy 0x7F#8),
    ([0xDD#8, 0xB4#8], .orXyHalf .ix .high),
    ([0xFD#8, 0xBE#8, 0xC3#8], .cpAtXyD .iy 0xC3#8),
    ([0xFD#8, 0xBD#8], .cpXyHalf .iy .low),
    ([0xDD#8, 0xE1#8], .popXy .ix),
    ([0xFD#8, 0xE3#8], .exAtSpXy .iy),
    ([0xFD#8, 0xE5#8], .pushXy .iy),
    ([0xDD#8, 0xE9#8], .jpXy .ix),
    ([0xFD#8, 0xF9#8], .ldSpXy .iy),
    ([0xFD#8, 0xFD#8], .prefixChain .iy .iy),
    ([0xDD#8, 0xED#8], .prefixEdAfterXy .ix),
    ([0xFD#8, 0xCB#8], .prefixCbAfterXy .iy),
    ([0xFD#8, 0x78#8], .fallbackXy .iy 0x78#8)] = true := by decide

/-- Words of the DD/FD CB table (30_encoding.md R154), the fields put in by the row's format. -/
theorem decodes_index_cb_1 : decodesAll [
    ([0xDD#8, 0xCB#8, 0x05#8, 0x06#8], .rlcAtXyD .ix 0x05#8),
    ([0xFD#8, 0xCB#8, 0xFB#8, 0x05#8], .rlcAtXyDR .iy 0xFB#8 .l),
    ([0xFD#8, 0xCB#8, 0x80#8, 0x0E#8], .rrcAtXyD .iy 0x80#8),
    ([0xDD#8, 0xCB#8, 0x7F#8, 0x0A#8], .rrcAtXyDR .ix 0x7F#8 .d),
    ([0xFD#8, 0xCB#8, 0xC3#8, 0x16#8], .rlAtXyD .iy 0xC3#8),
    ([0xFD#8, 0xCB#8, 0x05#8, 0x17#8], .rlAtXyDR .iy 0x05#8 .a),
    ([0xDD#8, 0xCB#8, 0xFB#8, 0x1E#8], .rrAtXyD .ix 0xFB#8),
    ([0xFD#8, 0xCB#8, 0x80#8, 0x18#8], .rrAtXyDR .iy 0x80#8 .b),
    ([0xFD#8, 0xCB#8, 0x7F#8, 0x26#8], .slaAtXyD .iy 0x7F#8),
    ([0xDD#8, 0xCB#8, 0xC3#8, 0x23#8], .slaAtXyDR .ix 0xC3#8 .e),
    ([0xFD#8, 0xCB#8, 0x05#8, 0x2E#8], .sraAtXyD .iy 0x05#8),
    ([0xFD#8, 0xCB#8, 0xFB#8, 0x29#8], .sraAtXyDR .iy 0xFB#8 .c),
    ([0xDD#8, 0xCB#8, 0x80#8, 0x36#8], .sllAtXyD .ix 0x80#8),
    ([0xFD#8, 0xCB#8, 0x7F#8, 0x34#8], .sllAtXyDR .iy 0x7F#8 .h),
    ([0xFD#8, 0xCB#8, 0xC3#8, 0x3E#8], .srlAtXyD .iy 0xC3#8),
    ([0xDD#8, 0xCB#8, 0x05#8, 0x3D#8], .srlAtXyDR .ix 0x05#8 .l),
    ([0xFD#8, 0xCB#8, 0xFB#8, 0x6D#8], .bitAtXyD .iy 0xFB#8 5#3 5#3),
    ([0xFD#8, 0xCB#8, 0x80#8, 0x96#8], .resAtXyD .iy 0x80#8 2#3),
    ([0xDD#8, 0xCB#8, 0x7F#8, 0xBA#8], .resAtXyDR .ix 0x7F#8 7#3 .d),
    ([0xFD#8, 0xCB#8, 0xC3#8, 0xC6#8], .setAtXyD .iy 0xC3#8 0#3),
    ([0xFD#8, 0xCB#8, 0x05#8, 0xDF#8], .setAtXyDR .iy 0x05#8 3#3 .a)] = true := by decide

/-- reg8[k] (R112): LD A,r for every r. -/
theorem decodes_every_reg8 : decodesAll [
    ([0x78#8], .ldRR .a .b),
    ([0x79#8], .ldRR .a .c),
    ([0x7A#8], .ldRR .a .d),
    ([0x7B#8], .ldRR .a .e),
    ([0x7C#8], .ldRR .a .h),
    ([0x7D#8], .ldRR .a .l),
    ([0x7F#8], .ldRR .a .a)] = true := by decide

/-- rp[p] and rp2[p] (R112): INC rp, PUSH rp2, ADD IX,rp. -/
theorem decodes_every_pair : decodesAll [
    ([0x03#8], .incRp .bc),
    ([0x13#8], .incRp .de),
    ([0x23#8], .incRp .hl),
    ([0x33#8], .incRp .sp),
    ([0xC5#8], .pushRp2 .bc),
    ([0xD5#8], .pushRp2 .de),
    ([0xE5#8], .pushRp2 .hl),
    ([0xF5#8], .pushRp2 .af),
    ([0xDD#8, 0x09#8], .addXyRp .ix .bc),
    ([0xDD#8, 0x19#8], .addXyRp .ix .de),
    ([0xDD#8, 0x29#8], .addXyRp .ix .xy),
    ([0xDD#8, 0x39#8], .addXyRp .ix .sp)] = true := by decide

/-- cc[k] (R112): RET cc for every condition, JR cc for four. -/
theorem decodes_every_condition : decodesAll [
    ([0xC0#8], .retCc .nz),
    ([0xC8#8], .retCc .z),
    ([0xD0#8], .retCc .nc),
    ([0xD8#8], .retCc .c),
    ([0xE0#8], .retCc .po),
    ([0xE8#8], .retCc .pe),
    ([0xF0#8], .retCc .p),
    ([0xF8#8], .retCc .m),
    ([0x20#8, 0xFE#8], .jrCc .nz 0xFE#8),
    ([0x28#8, 0xFE#8], .jrCc .z 0xFE#8),
    ([0x30#8, 0xFE#8], .jrCc .nc 0xFE#8),
    ([0x38#8, 0xFE#8], .jrCc .c 0xFE#8)] = true := by decide

/-- LD IYH,r' and LD IXL,r' for every source (R219). -/
theorem decodes_every_half_source : decodesAll [
    ([0xFD#8, 0x60#8], .ldXyHalfR .iy .high .b),
    ([0xFD#8, 0x61#8], .ldXyHalfR .iy .high .c),
    ([0xFD#8, 0x62#8], .ldXyHalfR .iy .high .d),
    ([0xFD#8, 0x63#8], .ldXyHalfR .iy .high .e),
    ([0xFD#8, 0x64#8], .ldXyHalfR .iy .high .xyh),
    ([0xFD#8, 0x65#8], .ldXyHalfR .iy .high .xyl),
    ([0xFD#8, 0x67#8], .ldXyHalfR .iy .high .a),
    ([0xDD#8, 0x68#8], .ldXyHalfR .ix .low .b),
    ([0xDD#8, 0x69#8], .ldXyHalfR .ix .low .c),
    ([0xDD#8, 0x6A#8], .ldXyHalfR .ix .low .d),
    ([0xDD#8, 0x6B#8], .ldXyHalfR .ix .low .e),
    ([0xDD#8, 0x6C#8], .ldXyHalfR .ix .low .xyh),
    ([0xDD#8, 0x6D#8], .ldXyHalfR .ix .low .xyl),
    ([0xDD#8, 0x6F#8], .ldXyHalfR .ix .low .a)] = true := by decide

theorem decode_rejects_a_cut_instruction :
    decode [] = .error .truncated ∧ decode [0x3E#8] = .error .truncated ∧ decode [0xDD#8, 0xCB#8, 0x05#8] = .error .truncated := by
  decide

/-! ## The host's two entry points, bits numbered as opcode_table.json numbers them (log entry 1) -/

theorem table_words_decode :
    decodeTableWord 8 0x76 = some .halt ∧ decodeTableWord 16 0x1005 = some (.djnz 0x05#8) ∧
      decodeTableWord 24 0x213412 = some (.ldRpNn .hl 0x1234#16) ∧
      decodeTableWord 32 0xFDCB05DE = some (.setAtXyD .iy 0x05#8 3#3) := by decide

theorem table_words_run_after_reset :
    afterStep (State.reset.withFetchWord 24 0x213412) (fun t => t.hl == 0x1234#16 && t.pc == 0x0003#16) = true ∧
      afterStep (State.reset.withFetchWord 32 0xFDCB05DE) (fun t => t.memptr == 0x0004#16 && t.pfx == .noPfx) = true ∧
      afterStep (State.reset.withFetchWord 8 0xDD) (fun t => t.pfx == .dd && t.pc == 0x0001#16) = true ∧
      afterStep (State.reset.withFetchWord 16 0xED56) (fun t => t.im == .im1) = true := by decide

/-! ## The stack after a full reset (log entry 21) and the order of end conditions (log entry 22) -/

/-- `RST 38H` as the first instruction: R44 (SP 0xFFFF) and R88 (decrement before each byte) by hand. -/
theorem first_push_after_full_reset :
    afterStep { State.reset with mem := [(0, 0xFF#8)] }
      (fun t => t.sp == 0xFFFD#16 && t.history.take 2 == [.write 0xFFFD#16 0x01#8, .write 0xFFFE#16 0x00#8]) = true := by decide

theorem end_conditions_met_together :
    let s := { base with mem := [(0x0100, 0x76#8)] }
    endCondition [0x0100#16] s = some .haltedForGood ∧ s.fetchesAt [0x0100#16] = true ∧
      endCondition [0x0100#16] base = some .breakpointReached ∧ endCondition [] base = none := by decide

/-! ## Single steps: the vectors of 95_test_vectors.md -/

/-- V30.1, DD (one step: prefix only) (R136). -/
theorem test_V30_1 : afterStep { base with mem := [(0x0100, 0xDD#8), (0x0101, 0x21#8), (0x0102, 0x34#8), (0x0103, 0x12#8)] }
    (fun t => t.f == 0x00#8 && t.pc == 0x0101#16 && t.r == 0x01#8 && t.pfx == .dd) = true := by decide

/-- V30.3, DD 00 (fallback NOP) (R137). -/
theorem test_V30_3 : afterStep { base with mem := [(0x0100, 0xDD#8)], pfx := .dd, pc := 0x0101#16, r7 := 0x01#7 }
    (fun t => t.f == 0x00#8 && t.pc == 0x0102#16 && t.r == 0x02#8 && t.pfx == .noPfx) = true := by decide

/-- V30.6, DD EB = EX DE,HL (fallback; HL not IX) (R137, R272). -/
theorem test_V30_6 : afterStep { base with
      mem := [(0x0100, 0xDD#8), (0x0101, 0xEB#8)], h := 0x11#8, l := 0x11#8, d := 0x22#8, e := 0x22#8, ix := 0x3333#16
      pfx := .dd, pc := 0x0101#16, r7 := 0x01#7 }
    (fun t => t.f == 0x00#8 && t.d == 0x11#8 && t.e == 0x11#8 && t.h == 0x22#8 && t.l == 0x22#8 && t.pc == 0x0102#16 &&
      t.r == 0x02#8 && t.pfx == .noPfx) = true := by decide

/-- V30.7, DD ED 44 = NEG (DD discarded) (R136). -/
theorem test_V30_7 : afterStep { base with
      mem := [(0x0100, 0xDD#8), (0x0101, 0xED#8), (0x0102, 0x44#8)], a := 0x01#8, pfx := .ed, pc := 0x0102#16, r7 := 0x02#7 }
    (fun t => t.a == 0xFF#8 && t.f == 0xBB#8 && t.pc == 0x0103#16 && t.qLast && t.r == 0x03#8 &&
      t.pfx == .noPfx) = true := by decide

/-- V30.8, FD CB 05 C6 = SET 0,(IY+5) (R +2 only) (R141). -/
theorem test_V30_8 : afterStep { base with
      mem := [(0x0100, 0xFD#8), (0x0101, 0xCB#8), (0x0102, 0x05#8), (0x0103, 0xC6#8)], iy := 0x2000#16, pfx := .fd
      pc := 0x0101#16, r7 := 0x01#7 }
    (fun t => t.f == 0x00#8 && t.pc == 0x0104#16 && t.memptr == 0x2005#16 && t.r == 0x02#8 && t.peek 0x2005#16 == 0x01#8 &&
      t.pfx == .noPfx) = true := by decide

/-- V40.1, LD B,C (R200). -/
theorem test_V40_1 : afterStep { base with mem := [(0x0100, 0x41#8)], c := 0x5A#8 }
    (fun t => t.f == 0x00#8 && t.b == 0x5A#8 && t.pc == 0x0101#16 && t.r == 0x01#8 && t.pfx == .noPfx) = true := by decide

/-- V40.2, LD A,(HL) (R202). -/
theorem test_V40_2 : afterStep { base with mem := [(0x0100, 0x7E#8), (0x2000, 0x77#8)], h := 0x20#8, l := 0x00#8 }
    (fun t => t.a == 0x77#8 && t.f == 0x00#8 && t.pc == 0x0101#16 && t.r == 0x01#8 && t.pfx == .noPfx) = true := by decide

/-- V40.4, LD A,(IX-2) (R203). -/
theorem test_V40_4 : afterStep { base with
      mem := [(0x0100, 0xDD#8), (0x0101, 0x7E#8), (0x0102, 0xFE#8), (0x2000, 0x12#8)], ix := 0x2002#16, pfx := .dd
      pc := 0x0101#16, r7 := 0x01#7 }
    (fun t => t.a == 0x12#8 && t.f == 0x00#8 && t.pc == 0x0103#16 && t.memptr == 0x2000#16 && t.r == 0x02#8 &&
      t.pfx == .noPfx) = true := by decide

/-- V40.5, LD (IX+7FH),55H (R207). -/
theorem test_V40_5 : afterStep { base with
      mem := [(0x0100, 0xDD#8), (0x0101, 0x36#8), (0x0102, 0x7F#8), (0x0103, 0x55#8)], ix := 0x2000#16, pfx := .dd
      pc := 0x0101#16, r7 := 0x01#7 }
    (fun t => t.f == 0x00#8 && t.pc == 0x0104#16 && t.memptr == 0x207F#16 && t.r == 0x02#8 && t.peek 0x207F#16 == 0x55#8 &&
      t.pfx == .noPfx) = true := by decide

/-- V40.7, LD (BC),A (MEMPTR low byte wraps) (R211). -/
theorem test_V40_7 : afterStep { base with mem := [(0x0100, 0x02#8)], a := 0x12#8, b := 0x20#8, c := 0xFF#8 }
    (fun t => t.f == 0x00#8 && t.pc == 0x0101#16 && t.memptr == 0x1200#16 && t.r == 0x01#8 && t.peek 0x20FF#16 == 0x12#8 &&
      t.pfx == .noPfx) = true := by decide

/-- V40.9, LD A,(nn) at 0xFFFF (R210). -/
theorem test_V40_9 : afterStep { base with mem := [(0x0100, 0x3A#8), (0x0101, 0xFF#8), (0x0102, 0xFF#8), (0xFFFF, 0x42#8)] }
    (fun t => t.a == 0x42#8 && t.f == 0x00#8 && t.pc == 0x0103#16 && t.memptr == 0x0000#16 && t.r == 0x01#8 &&
      t.pfx == .noPfx) = true := by decide

/-- V40.10, LD A,I, intLine=0 (R214). -/
theorem test_V40_10 : afterStep { base with
      mem := [(0x0100, 0xED#8), (0x0101, 0x57#8)], i := 0x80#8, iff2 := true, pfx := .ed, pc := 0x0101#16, r7 := 0x01#7 }
    (fun t => t.a == 0x80#8 && t.f == 0x84#8 && t.pc == 0x0102#16 && t.qLast && t.r == 0x02#8 &&
      t.pfx == .noPfx) = true := by decide

/-- V40.11, LD A,I, intLine=1 (ldAirIntQuirk) (R214). -/
theorem test_V40_11 : afterStep { base with
      mem := [(0x0100, 0xED#8), (0x0101, 0x57#8)], i := 0x80#8, iff2 := true, intLine := true, pfx := .ed, pc := 0x0101#16
      r7 := 0x01#7 }
    (fun t => t.a == 0x80#8 && t.f == 0x80#8 && t.pc == 0x0102#16 && t.qLast && t.r == 0x02#8 &&
      t.pfx == .noPfx) = true := by decide

/-- V40.13, LD A,R with bit 7 set (R215). -/
theorem test_V40_13 : afterStep { base with
      mem := [(0x0100, 0xED#8), (0x0101, 0x5F#8)], pfx := .ed, pc := 0x0101#16, r7 := 0x7F#7, rhi := true }
    (fun t => t.a == 0x80#8 && t.f == 0x80#8 && t.pc == 0x0102#16 && t.qLast && t.r == 0x80#8 &&
      t.pfx == .noPfx) = true := by decide

/-- V40.14, LD R,A (R217). -/
theorem test_V40_14 : afterStep { base with
      mem := [(0x0100, 0xED#8), (0x0101, 0x4F#8)], a := 0x80#8, pfx := .ed, pc := 0x0101#16, r7 := 0x01#7 }
    (fun t => t.f == 0x00#8 && t.pc == 0x0102#16 && t.r == 0x80#8 && t.pfx == .noPfx) = true := by decide

/-- V40.15, LD IXH,33H (R220). -/
theorem test_V40_15 : afterStep { base with
      mem := [(0x0100, 0xDD#8), (0x0101, 0x26#8), (0x0102, 0x33#8)], ix := 0x1122#16, pfx := .dd, pc := 0x0101#16
      r7 := 0x01#7 }
    (fun t => t.f == 0x00#8 && t.ix == 0x3322#16 && t.pc == 0x0103#16 && t.r == 0x02#8 &&
      t.pfx == .noPfx) = true := by decide

/-- V40.16, LD H,(IX+0) (real H written) (R203). -/
theorem test_V40_16 : afterStep { base with
      mem := [(0x0100, 0xDD#8), (0x0101, 0x66#8), (0x2000, 0xAB#8)], ix := 0x2000#16, h := 0x12#8, l := 0x34#8, pfx := .dd
      pc := 0x0101#16, r7 := 0x01#7 }
    (fun t => t.f == 0x00#8 && t.h == 0xAB#8 && t.pc == 0x0103#16 && t.memptr == 0x2000#16 && t.r == 0x02#8 &&
      t.pfx == .noPfx) = true := by decide

/-- V40.18, LD IXL,IXH (R219). -/
theorem test_V40_18 : afterStep { base with
      mem := [(0x0100, 0xDD#8), (0x0101, 0x6C#8)], ix := 0x1122#16, pfx := .dd, pc := 0x0101#16, r7 := 0x01#7 }
    (fun t => t.f == 0x00#8 && t.ix == 0x1111#16 && t.pc == 0x0102#16 && t.r == 0x02#8 &&
      t.pfx == .noPfx) = true := by decide

/-- V41.2, LD HL,(2000H) (R242). -/
theorem test_V41_2 : afterStep { base with mem := [(0x0100, 0x2A#8), (0x0102, 0x20#8), (0x2000, 0xCD#8), (0x2001, 0xAB#8)] }
    (fun t => t.f == 0x00#8 && t.h == 0xAB#8 && t.l == 0xCD#8 && t.pc == 0x0103#16 && t.memptr == 0x2001#16 &&
      t.r == 0x01#8 && t.pfx == .noPfx) = true := by decide

/-- V41.4, LD (FFFFH),HL (wraps) (R245). -/
theorem test_V41_4 : afterStep { base with
      mem := [(0x0100, 0x22#8), (0x0101, 0xFF#8), (0x0102, 0xFF#8)], h := 0x12#8, l := 0x34#8 }
    (fun t => t.f == 0x00#8 && t.pc == 0x0103#16 && t.memptr == 0x0000#16 && t.r == 0x01#8 && t.peek 0xFFFF#16 == 0x34#8 &&
      t.peek 0x0000#16 == 0x12#8 && t.pfx == .noPfx) = true := by decide

/-- V41.5, LD (2000H),SP (R246). -/
theorem test_V41_5 : afterStep { base with
      mem := [(0x0100, 0xED#8), (0x0101, 0x73#8), (0x0103, 0x20#8)], sp := 0xBEEF#16, pfx := .ed, pc := 0x0101#16
      r7 := 0x01#7 }
    (fun t => t.f == 0x00#8 && t.pc == 0x0104#16 && t.memptr == 0x2001#16 && t.r == 0x02#8 && t.peek 0x2000#16 == 0xEF#8 &&
      t.peek 0x2001#16 == 0xBE#8 && t.pfx == .noPfx) = true := by decide

/-- V41.6, LD IY,(2000H) (R244). -/
theorem test_V41_6 : afterStep { base with
      mem := [(0x0100, 0xFD#8), (0x0101, 0x2A#8), (0x0103, 0x20#8), (0x2000, 0x01#8), (0x2001, 0x80#8)], pfx := .fd
      pc := 0x0101#16, r7 := 0x01#7 }
    (fun t => t.f == 0x00#8 && t.iy == 0x8001#16 && t.pc == 0x0104#16 && t.memptr == 0x2001#16 && t.r == 0x02#8 &&
      t.pfx == .noPfx) = true := by decide

/-- V41.7, LD SP,IX (R249). -/
theorem test_V41_7 : afterStep { base with
      mem := [(0x0100, 0xDD#8), (0x0101, 0xF9#8)], ix := 0x4000#16, pfx := .dd, pc := 0x0101#16, r7 := 0x01#7 }
    (fun t => t.f == 0x00#8 && t.sp == 0x4000#16 && t.pc == 0x0102#16 && t.r == 0x02#8 &&
      t.pfx == .noPfx) = true := by decide

/-- V41.8, PUSH AF (R250). -/
theorem test_V41_8 : afterStep { base with mem := [(0x0100, 0xF5#8)], a := 0x12#8, f := 0xD7#8 }
    (fun t => t.f == 0xD7#8 && t.sp == 0xFEFE#16 && t.pc == 0x0101#16 && t.r == 0x01#8 && t.peek 0xFEFF#16 == 0x12#8 &&
      t.peek 0xFEFE#16 == 0xD7#8 && t.pfx == .noPfx) = true := by decide

/-- V41.9, POP AF (F written whole) (R252). -/
theorem test_V41_9 : afterStep { base with mem := [(0x0100, 0xF1#8), (0xFF00, 0xFF#8)] }
    (fun t => t.f == 0xFF#8 && t.sp == 0xFF02#16 && t.pc == 0x0101#16 && t.r == 0x01#8 &&
      t.pfx == .noPfx) = true := by decide

/-- V41.10, POP BC at SP=FFFFH (wraps) (R252). -/
theorem test_V41_10 : afterStep { base with mem := [(0x0000, 0x12#8), (0x0100, 0xC1#8), (0xFFFF, 0x34#8)], sp := 0xFFFF#16 }
    (fun t => t.f == 0x00#8 && t.b == 0x12#8 && t.c == 0x34#8 && t.sp == 0x0001#16 && t.pc == 0x0101#16 && t.r == 0x01#8 &&
      t.pfx == .noPfx) = true := by decide

/-- V42.1, EX AF,AF' (R270). -/
theorem test_V42_1 : afterStep { base with
      mem := [(0x0100, 0x08#8)], a := 0x12#8, f := 0x34#8, altA := 0x56#8, altF := 0x78#8 }
    (fun t => t.a == 0x56#8 && t.f == 0x78#8 && t.altA == 0x12#8 && t.altF == 0x34#8 && t.pc == 0x0101#16 &&
      t.r == 0x01#8 && t.pfx == .noPfx) = true := by decide

/-- V42.2, EXX (R271). -/
theorem test_V42_2 : afterStep { base with
      mem := [(0x0100, 0xD9#8)], b := 0x11#8, c := 0x11#8, altB := 0x22#8, altC := 0x22#8, altH := 0x33#8 }
    (fun t => t.f == 0x00#8 && t.b == 0x22#8 && t.c == 0x22#8 && t.h == 0x33#8 && t.altB == 0x11#8 && t.altC == 0x11#8 &&
      t.altH == 0x00#8 && t.pc == 0x0101#16 && t.r == 0x01#8 && t.pfx == .noPfx) = true := by decide

/-- V42.3, EX (SP),HL (R273). -/
theorem test_V42_3 : afterStep { base with
      mem := [(0x0100, 0xE3#8), (0xFF00, 0x78#8), (0xFF01, 0x56#8)], h := 0x12#8, l := 0x34#8 }
    (fun t => t.f == 0x00#8 && t.h == 0x56#8 && t.l == 0x78#8 && t.pc == 0x0101#16 && t.memptr == 0x5678#16 &&
      t.r == 0x01#8 && t.peek 0xFF01#16 == 0x12#8 && t.peek 0xFF00#16 == 0x34#8 && t.pfx == .noPfx) = true := by decide

/-- V42.4, EX (SP),IY (R274). -/
theorem test_V42_4 : afterStep { base with
      mem := [(0x0100, 0xFD#8), (0x0101, 0xE3#8), (0xFF00, 0x78#8), (0xFF01, 0x56#8)], iy := 0x1234#16, pfx := .fd
      pc := 0x0101#16, r7 := 0x01#7 }
    (fun t => t.f == 0x00#8 && t.iy == 0x5678#16 && t.pc == 0x0102#16 && t.memptr == 0x5678#16 && t.r == 0x02#8 &&
      t.peek 0xFF01#16 == 0x12#8 && t.peek 0xFF00#16 == 0x34#8 && t.pfx == .noPfx) = true := by decide

/-- V42.6, LDI, BC=2, A+t bits 1 and 3 (R281). -/
theorem test_V42_6 : afterStep { base with
      mem := [(0x0100, 0xED#8), (0x0101, 0xA0#8), (0x2000, 0x08#8)], h := 0x20#8, l := 0x00#8, d := 0x30#8, e := 0x00#8
      b := 0x00#8, c := 0x02#8, a := 0x20#8, pfx := .ed, pc := 0x0101#16, r7 := 0x01#7 }
    (fun t => t.f == 0x0C#8 && t.c == 0x01#8 && t.e == 0x01#8 && t.l == 0x01#8 && t.pc == 0x0102#16 && t.qLast &&
      t.r == 0x02#8 && t.peek 0x3000#16 == 0x08#8 && t.pfx == .noPfx) = true := by decide

/-- V42.7, LDD (R282). -/
theorem test_V42_7 : afterStep { base with
      mem := [(0x0100, 0xED#8), (0x0101, 0xA8#8), (0x2000, 0x55#8)], h := 0x20#8, l := 0x00#8, d := 0x30#8, e := 0x00#8
      b := 0x00#8, c := 0x03#8, pfx := .ed, pc := 0x0101#16, r7 := 0x01#7 }
    (fun t => t.f == 0x04#8 && t.c == 0x02#8 && t.d == 0x2F#8 && t.e == 0xFF#8 && t.h == 0x1F#8 && t.l == 0xFF#8 &&
      t.pc == 0x0102#16 && t.qLast && t.r == 0x02#8 && t.peek 0x3000#16 == 0x55#8 && t.pfx == .noPfx) = true := by decide

/-- V42.8, LDIR iteration, BC=2 (repeats) (R283, R280). -/
theorem test_V42_8 : afterStep { base with
      mem := [(0x0100, 0xED#8), (0x0101, 0xB0#8), (0x2000, 0x11#8)], h := 0x20#8, l := 0x00#8, d := 0x30#8, e := 0x00#8
      b := 0x00#8, c := 0x02#8, pfx := .ed, pc := 0x0101#16, r7 := 0x01#7 }
    (fun t => t.f == 0x04#8 && t.c == 0x01#8 && t.e == 0x01#8 && t.l == 0x01#8 && t.memptr == 0x0101#16 && t.qLast &&
      t.r == 0x02#8 && t.peek 0x3000#16 == 0x11#8 && t.pfx == .noPfx) = true := by decide

/-- V42.9, LDIR final iteration, BC=1 (R283, R280). -/
theorem test_V42_9 : afterStep { base with
      mem := [(0x0100, 0xED#8), (0x0101, 0xB0#8), (0x2000, 0x11#8)], h := 0x20#8, l := 0x00#8, d := 0x30#8, e := 0x00#8
      b := 0x00#8, c := 0x01#8, pfx := .ed, pc := 0x0101#16, r7 := 0x01#7 }
    (fun t => t.f == 0x00#8 && t.c == 0x00#8 && t.e == 0x01#8 && t.l == 0x01#8 && t.pc == 0x0102#16 && t.qLast &&
      t.r == 0x02#8 && t.peek 0x3000#16 == 0x11#8 && t.pfx == .noPfx) = true := by decide

/-- V42.12, CPI, no match, H borrow (R285). -/
theorem test_V42_12 : afterStep { base with
      mem := [(0x0100, 0xED#8), (0x0101, 0xA1#8), (0x2000, 0x01#8)], a := 0x10#8, h := 0x20#8, l := 0x00#8, b := 0x00#8
      c := 0x01#8, pfx := .ed, pc := 0x0101#16, r7 := 0x01#7 }
    (fun t => t.f == 0x3A#8 && t.c == 0x00#8 && t.l == 0x01#8 && t.pc == 0x0102#16 && t.memptr == 0xA5A6#16 && t.qLast &&
      t.r == 0x02#8 && t.pfx == .noPfx) = true := by decide

/-- V42.13, CPIR, no match, repeats (R287, R280). -/
theorem test_V42_13 : afterStep { base with
      mem := [(0x0100, 0xED#8), (0x0101, 0xB1#8)], a := 0x3C#8, h := 0x20#8, l := 0x00#8, b := 0x00#8, c := 0x05#8
      pfx := .ed, pc := 0x0101#16, r7 := 0x01#7 }
    (fun t => t.f == 0x0E#8 && t.c == 0x04#8 && t.l == 0x01#8 && t.memptr == 0x0101#16 && t.qLast && t.r == 0x02#8 &&
      t.pfx == .noPfx) = true := by decide

/-- V42.15, CPD (R286). -/
theorem test_V42_15 : afterStep { base with
      mem := [(0x0100, 0xED#8), (0x0101, 0xA9#8), (0x2000, 0x02#8)], a := 0x01#8, h := 0x20#8, l := 0x00#8, b := 0x00#8
      c := 0x02#8, pfx := .ed, pc := 0x0101#16, r7 := 0x01#7 }
    (fun t => t.f == 0xBE#8 && t.c == 0x01#8 && t.h == 0x1F#8 && t.l == 0xFF#8 && t.pc == 0x0102#16 &&
      t.memptr == 0xA5A4#16 && t.qLast && t.r == 0x02#8 && t.pfx == .noPfx) = true := by decide

/-- V42.16, INI (R289). -/
theorem test_V42_16 : afterStep { base with
      mem := [(0x0100, 0xED#8), (0x0101, 0xA2#8)], b := 0x02#8, c := 0x10#8, h := 0x20#8, l := 0x00#8, pfx := .ed
      pc := 0x0101#16, r7 := 0x01#7, portInputs := [0x80#8] }
    (fun t => t.f == 0x06#8 && t.b == 0x01#8 && t.l == 0x01#8 && t.pc == 0x0102#16 && t.memptr == 0x0211#16 && t.qLast &&
      t.r == 0x02#8 && t.peek 0x2000#16 == 0x80#8 && t.history.contains (.portRead 0x0210#16 0x80#8) &&
      t.pfx == .noPfx) = true := by decide

/-- V42.18, OUTI (R293). -/
theorem test_V42_18 : afterStep { base with
      mem := [(0x0100, 0xED#8), (0x0101, 0xA3#8), (0x2000, 0x55#8)], b := 0x02#8, c := 0x10#8, h := 0x20#8, l := 0x00#8
      pfx := .ed, pc := 0x0101#16, r7 := 0x01#7 }
    (fun t => t.f == 0x00#8 && t.b == 0x01#8 && t.l == 0x01#8 && t.pc == 0x0102#16 && t.memptr == 0x0111#16 && t.qLast &&
      t.r == 0x02#8 && t.history.contains (.portWrite 0x0110#16 0x55#8) && t.pfx == .noPfx) = true := by decide

/-- V42.19, OTIR final, B=1 (R295, R280). -/
theorem test_V42_19 : afterStep { base with
      mem := [(0x0100, 0xED#8), (0x0101, 0xB3#8), (0x2000, 0xFF#8)], b := 0x01#8, c := 0x10#8, h := 0x20#8, l := 0x00#8
      pfx := .ed, pc := 0x0101#16, r7 := 0x01#7 }
    (fun t => t.f == 0x57#8 && t.b == 0x00#8 && t.l == 0x01#8 && t.pc == 0x0102#16 && t.memptr == 0x0011#16 && t.qLast &&
      t.r == 0x02#8 && t.history.contains (.portWrite 0x0010#16 0xFF#8) && t.pfx == .noPfx) = true := by decide

/-- V42.20, INIR iteration, B=2 (R291, R280). -/
theorem test_V42_20 : afterStep { base with
      mem := [(0x0100, 0xED#8), (0x0101, 0xB2#8)], b := 0x02#8, c := 0x10#8, h := 0x20#8, l := 0x00#8, pfx := .ed
      pc := 0x0101#16, r7 := 0x01#7, portInputs := [0x01#8] }
    (fun t => t.f == 0x04#8 && t.b == 0x01#8 && t.l == 0x01#8 && t.memptr == 0x0101#16 && t.qLast && t.r == 0x02#8 &&
      t.peek 0x2000#16 == 0x01#8 && t.history.contains (.portRead 0x0210#16 0x01#8) && t.pfx == .noPfx) = true := by decide

/-- V43.1, ADD A,B 7FH+01H (overflow, half) (R320). -/
theorem test_V43_1 : afterStep { base with mem := [(0x0100, 0x80#8)], a := 0x7F#8, b := 0x01#8 }
    (fun t => t.a == 0x80#8 && t.f == 0x94#8 && t.pc == 0x0101#16 && t.qLast && t.r == 0x01#8 &&
      t.pfx == .noPfx) = true := by decide

/-- V43.4, ADC A,B 0FH+00H+C (R325). -/
theorem test_V43_4 : afterStep { base with mem := [(0x0100, 0x88#8)], a := 0x0F#8, b := 0x00#8, f := 0x01#8 }
    (fun t => t.a == 0x10#8 && t.f == 0x10#8 && t.pc == 0x0101#16 && t.qLast && t.r == 0x01#8 &&
      t.pfx == .noPfx) = true := by decide

/-- V43.6, SUB B 00H-01H (R330). -/
theorem test_V43_6 : afterStep { base with mem := [(0x0100, 0x90#8)], a := 0x00#8, b := 0x01#8 }
    (fun t => t.a == 0xFF#8 && t.f == 0xBB#8 && t.pc == 0x0101#16 && t.qLast && t.r == 0x01#8 &&
      t.pfx == .noPfx) = true := by decide

/-- V43.8, SBC A,B 80H-00H-C (overflow) (R335). -/
theorem test_V43_8 : afterStep { base with mem := [(0x0100, 0x98#8)], a := 0x80#8, b := 0x00#8, f := 0x01#8 }
    (fun t => t.a == 0x7F#8 && t.f == 0x3E#8 && t.pc == 0x0101#16 && t.qLast && t.r == 0x01#8 &&
      t.pfx == .noPfx) = true := by decide

/-- V43.10, AND 0FH (H=1) (R341). -/
theorem test_V43_10 : afterStep { base with mem := [(0x0100, 0xE6#8), (0x0101, 0x0F#8)], a := 0xF3#8 }
    (fun t => t.a == 0x03#8 && t.f == 0x14#8 && t.pc == 0x0102#16 && t.qLast && t.r == 0x01#8 &&
      t.pfx == .noPfx) = true := by decide

/-- V43.11, XOR A (R345). -/
theorem test_V43_11 : afterStep { base with mem := [(0x0100, 0xAF#8)], a := 0x5A#8, f := 0xFF#8 }
    (fun t => t.a == 0x00#8 && t.f == 0x44#8 && t.pc == 0x0101#16 && t.qLast && t.r == 0x01#8 &&
      t.pfx == .noPfx) = true := by decide

/-- V43.12, OR B (odd parity) (R350). -/
theorem test_V43_12 : afterStep { base with mem := [(0x0100, 0xB0#8)], a := 0x01#8, b := 0x02#8, f := 0x01#8 }
    (fun t => t.a == 0x03#8 && t.f == 0x04#8 && t.pc == 0x0101#16 && t.qLast && t.r == 0x01#8 &&
      t.pfx == .noPfx) = true := by decide

/-- V43.13, CP 28H (Y, X from operand) (R356). -/
theorem test_V43_13 : afterStep { base with mem := [(0x0100, 0xFE#8), (0x0101, 0x28#8)], a := 0x40#8 }
    (fun t => t.f == 0x3A#8 && t.pc == 0x0102#16 && t.qLast && t.r == 0x01#8 && t.pfx == .noPfx) = true := by decide

/-- V43.15, CP B 7FH-80H (overflow) (R355). -/
theorem test_V43_15 : afterStep { base with mem := [(0x0100, 0xB8#8)], a := 0x7F#8, b := 0x80#8 }
    (fun t => t.f == 0x87#8 && t.pc == 0x0101#16 && t.qLast && t.r == 0x01#8 && t.pfx == .noPfx) = true := by decide

/-- V43.16, INC A 7FH (C kept) (R360). -/
theorem test_V43_16 : afterStep { base with mem := [(0x0100, 0x3C#8)], a := 0x7F#8, f := 0x01#8 }
    (fun t => t.a == 0x80#8 && t.f == 0x95#8 && t.pc == 0x0101#16 && t.qLast && t.r == 0x01#8 &&
      t.pfx == .noPfx) = true := by decide

/-- V43.18, DEC B 80H (R364). -/
theorem test_V43_18 : afterStep { base with mem := [(0x0100, 0x05#8)], b := 0x80#8 }
    (fun t => t.f == 0x3E#8 && t.b == 0x7F#8 && t.pc == 0x0101#16 && t.qLast && t.r == 0x01#8 &&
      t.pfx == .noPfx) = true := by decide

/-- V43.20, INC (HL) (R361). -/
theorem test_V43_20 : afterStep { base with mem := [(0x0100, 0x34#8), (0x2000, 0x0F#8)], h := 0x20#8, l := 0x00#8 }
    (fun t => t.f == 0x10#8 && t.pc == 0x0101#16 && t.qLast && t.r == 0x01#8 && t.peek 0x2000#16 == 0x10#8 &&
      t.pfx == .noPfx) = true := by decide

/-- V43.21, DEC (IX+1) (R366). -/
theorem test_V43_21 : afterStep { base with
      mem := [(0x0100, 0xDD#8), (0x0101, 0x35#8), (0x0102, 0x01#8)], ix := 0x2000#16, pfx := .dd, pc := 0x0101#16
      r7 := 0x01#7 }
    (fun t => t.f == 0xBA#8 && t.pc == 0x0103#16 && t.memptr == 0x2001#16 && t.qLast && t.r == 0x02#8 &&
      t.peek 0x2001#16 == 0xFF#8 && t.pfx == .noPfx) = true := by decide

/-- V43.22, ADD A,(IY-1) (R323). -/
theorem test_V43_22 : afterStep { base with
      mem := [(0x0100, 0xFD#8), (0x0101, 0x86#8), (0x0102, 0xFF#8), (0x2000, 0x20#8)], iy := 0x2001#16, a := 0x10#8
      pfx := .fd, pc := 0x0101#16, r7 := 0x01#7 }
    (fun t => t.a == 0x30#8 && t.f == 0x20#8 && t.pc == 0x0103#16 && t.memptr == 0x2000#16 && t.qLast && t.r == 0x02#8 &&
      t.pfx == .noPfx) = true := by decide

/-- V43.23, SUB IXL (R334). -/
theorem test_V43_23 : afterStep { base with
      mem := [(0x0100, 0xDD#8), (0x0101, 0x95#8)], ix := 0x0001#16, a := 0x01#8, pfx := .dd, pc := 0x0101#16, r7 := 0x01#7 }
    (fun t => t.a == 0x00#8 && t.f == 0x42#8 && t.pc == 0x0102#16 && t.qLast && t.r == 0x02#8 &&
      t.pfx == .noPfx) = true := by decide

/-- V43.24, INC IYH (R363). -/
theorem test_V43_24 : afterStep { base with
      mem := [(0x0100, 0xFD#8), (0x0101, 0x24#8)], iy := 0x7F00#16, pfx := .fd, pc := 0x0101#16, r7 := 0x01#7 }
    (fun t => t.f == 0x94#8 && t.iy == 0x8000#16 && t.pc == 0x0102#16 && t.qLast && t.r == 0x02#8 &&
      t.pfx == .noPfx) = true := by decide

/-- V44.1, DAA after 15H+27H (R380). -/
theorem test_V44_1 : afterStep { base with mem := [(0x0100, 0x27#8)], a := 0x3C#8, f := 0x00#8 }
    (fun t => t.a == 0x42#8 && t.f == 0x14#8 && t.pc == 0x0101#16 && t.qLast && t.r == 0x01#8 &&
      t.pfx == .noPfx) = true := by decide

/-- V44.2, DAA after 42H-15H (R380). -/
theorem test_V44_2 : afterStep { base with mem := [(0x0100, 0x27#8)], a := 0x2D#8, f := 0x12#8 }
    (fun t => t.a == 0x27#8 && t.f == 0x26#8 && t.pc == 0x0101#16 && t.qLast && t.r == 0x01#8 &&
      t.pfx == .noPfx) = true := by decide

/-- V44.4, DAA, A=00H, H=1, N=1 (R380). -/
theorem test_V44_4 : afterStep { base with mem := [(0x0100, 0x27#8)], a := 0x00#8, f := 0x12#8 }
    (fun t => t.a == 0xFA#8 && t.f == 0xBE#8 && t.pc == 0x0101#16 && t.qLast && t.r == 0x01#8 &&
      t.pfx == .noPfx) = true := by decide

/-- V44.5, CPL (R381). -/
theorem test_V44_5 : afterStep { base with mem := [(0x0100, 0x2F#8)], a := 0x5A#8, f := 0x00#8 }
    (fun t => t.a == 0xA5#8 && t.f == 0x32#8 && t.pc == 0x0101#16 && t.qLast && t.r == 0x01#8 &&
      t.pfx == .noPfx) = true := by decide

/-- V44.8, NEG 01H via ED 4C (R382). -/
theorem test_V44_8 : afterStep { base with
      mem := [(0x0100, 0xED#8), (0x0101, 0x4C#8)], a := 0x01#8, pfx := .ed, pc := 0x0101#16, r7 := 0x01#7 }
    (fun t => t.a == 0xFF#8 && t.f == 0xBB#8 && t.pc == 0x0102#16 && t.qLast && t.r == 0x02#8 &&
      t.pfx == .noPfx) = true := by decide

/-- V44.9, SCF, previous instruction set flags (R384). -/
theorem test_V44_9 : afterStep { base with mem := [(0x0100, 0x37#8)], a := 0x00#8, f := 0x28#8, qLast := true }
    (fun t => t.f == 0x01#8 && t.pc == 0x0101#16 && t.r == 0x01#8 && t.pfx == .noPfx) = true := by decide

/-- V44.10, SCF, previous instruction did not (R384). -/
theorem test_V44_10 : afterStep { base with mem := [(0x0100, 0x37#8)], a := 0x00#8, f := 0x28#8, qLast := false }
    (fun t => t.f == 0x29#8 && t.pc == 0x0101#16 && t.qLast && t.r == 0x01#8 && t.pfx == .noPfx) = true := by decide

/-- V44.12, CCF, C=1 (R383). -/
theorem test_V44_12 : afterStep { base with mem := [(0x0100, 0x3F#8)], a := 0x00#8, f := 0x01#8 }
    (fun t => t.f == 0x10#8 && t.pc == 0x0101#16 && t.qLast && t.r == 0x01#8 && t.pfx == .noPfx) = true := by decide

/-- V44.13, HALT (R386). -/
theorem test_V44_13 : afterStep { base with mem := [(0x0100, 0x76#8)] }
    (fun t => t.f == 0x00#8 && t.halted && t.r == 0x01#8 && t.pfx == .noPfx) = true := by decide

/-- V44.15, DI (R387). -/
theorem test_V44_15 : afterStep { base with mem := [(0x0100, 0xF3#8)], iff1 := true, iff2 := true }
    (fun t => t.f == 0x00#8 && t.pc == 0x0101#16 && !t.iff1 && !t.iff2 && t.r == 0x01#8 &&
      t.pfx == .noPfx) = true := by decide

/-- V44.16, EI (R388). -/
theorem test_V44_16 : afterStep { base with mem := [(0x0100, 0xFB#8)] }
    (fun t => t.f == 0x00#8 && t.pc == 0x0101#16 && t.iff1 && t.iff2 && t.pendingEI && t.r == 0x01#8 &&
      t.pfx == .noPfx) = true := by decide

/-- V44.17, IM 2 (R391). -/
theorem test_V44_17 : afterStep { base with
      mem := [(0x0100, 0xED#8), (0x0101, 0x5E#8)], pfx := .ed, pc := 0x0101#16, r7 := 0x01#7 }
    (fun t => t.f == 0x00#8 && t.pc == 0x0102#16 && t.r == 0x02#8 && t.im == .im2 && t.pfx == .noPfx) = true := by decide

/-- V44.20, ED FD (no-op; FD not a prefix here) (R392). -/
theorem test_V44_20 : afterStep { base with
      mem := [(0x0100, 0xED#8), (0x0101, 0xFD#8)], pfx := .ed, pc := 0x0101#16, r7 := 0x01#7 }
    (fun t => t.f == 0x00#8 && t.pc == 0x0102#16 && t.r == 0x02#8 && t.pfx == .noPfx) = true := by decide

/-- V45.1, ADD HL,BC 0FFFH+0001H (R413). -/
theorem test_V45_1 : afterStep { base with mem := [(0x0100, 0x09#8)], h := 0x0F#8, l := 0xFF#8, b := 0x00#8, c := 0x01#8 }
    (fun t => t.f == 0x10#8 && t.h == 0x10#8 && t.l == 0x00#8 && t.pc == 0x0101#16 && t.memptr == 0x1000#16 && t.qLast &&
      t.r == 0x01#8 && t.pfx == .noPfx) = true := by decide

/-- V45.3, ADC HL,DE to zero (R415). -/
theorem test_V45_3 : afterStep { base with
      mem := [(0x0100, 0xED#8), (0x0101, 0x5A#8)], h := 0xFF#8, l := 0xFF#8, d := 0x00#8, e := 0x00#8, f := 0x01#8
      pfx := .ed, pc := 0x0101#16, r7 := 0x01#7 }
    (fun t => t.f == 0x51#8 && t.h == 0x00#8 && t.l == 0x00#8 && t.pc == 0x0102#16 && t.memptr == 0x0000#16 && t.qLast &&
      t.r == 0x02#8 && t.pfx == .noPfx) = true := by decide

/-- V45.5, SBC HL,BC 8000H-0001H (overflow) (R416). -/
theorem test_V45_5 : afterStep { base with
      mem := [(0x0100, 0xED#8), (0x0101, 0x42#8)], h := 0x80#8, l := 0x00#8, b := 0x00#8, c := 0x01#8, pfx := .ed
      pc := 0x0101#16, r7 := 0x01#7 }
    (fun t => t.f == 0x3E#8 && t.h == 0x7F#8 && t.l == 0xFF#8 && t.pc == 0x0102#16 && t.memptr == 0x8001#16 && t.qLast &&
      t.r == 0x02#8 && t.pfx == .noPfx) = true := by decide

/-- V45.8, DEC SP 0000H (R419). -/
theorem test_V45_8 : afterStep { base with mem := [(0x0100, 0x3B#8)], sp := 0x0000#16 }
    (fun t => t.f == 0x00#8 && t.sp == 0xFFFF#16 && t.pc == 0x0101#16 && t.r == 0x01#8 &&
      t.pfx == .noPfx) = true := by decide

/-- V45.9, ADD IX,IX (R414). -/
theorem test_V45_9 : afterStep { base with
      mem := [(0x0100, 0xDD#8), (0x0101, 0x29#8)], ix := 0x8800#16, pfx := .dd, pc := 0x0101#16, r7 := 0x01#7 }
    (fun t => t.f == 0x11#8 && t.ix == 0x1000#16 && t.pc == 0x0102#16 && t.memptr == 0x8801#16 && t.qLast &&
      t.r == 0x02#8 && t.pfx == .noPfx) = true := by decide

/-- V46.1, RLCA 81H (R430). -/
theorem test_V46_1 : afterStep { base with mem := [(0x0100, 0x07#8)], a := 0x81#8, f := 0xC4#8 }
    (fun t => t.a == 0x03#8 && t.f == 0xC5#8 && t.pc == 0x0101#16 && t.qLast && t.r == 0x01#8 &&
      t.pfx == .noPfx) = true := by decide

/-- V46.4, RRA 01H, C=1 (R433). -/
theorem test_V46_4 : afterStep { base with mem := [(0x0100, 0x1F#8)], a := 0x01#8, f := 0x01#8 }
    (fun t => t.a == 0x80#8 && t.f == 0x01#8 && t.pc == 0x0101#16 && t.qLast && t.r == 0x01#8 &&
      t.pfx == .noPfx) = true := by decide

/-- V46.5, RLC B 80H (R440). -/
theorem test_V46_5 : afterStep { base with
      mem := [(0x0100, 0xCB#8)], b := 0x80#8, pfx := .cb, pc := 0x0101#16, r7 := 0x01#7 }
    (fun t => t.f == 0x01#8 && t.b == 0x01#8 && t.pc == 0x0102#16 && t.qLast && t.r == 0x02#8 &&
      t.pfx == .noPfx) = true := by decide

/-- V46.6, RRC (HL) 01H (R445). -/
theorem test_V46_6 : afterStep { base with
      mem := [(0x0100, 0xCB#8), (0x0101, 0x0E#8), (0x2000, 0x01#8)], h := 0x20#8, l := 0x00#8, pfx := .cb, pc := 0x0101#16
      r7 := 0x01#7 }
    (fun t => t.f == 0x81#8 && t.pc == 0x0102#16 && t.qLast && t.r == 0x02#8 && t.peek 0x2000#16 == 0x80#8 &&
      t.pfx == .noPfx) = true := by decide

/-- V46.8, RR D 01H, C=1 (R452). -/
theorem test_V46_8 : afterStep { base with
      mem := [(0x0100, 0xCB#8), (0x0101, 0x1A#8)], d := 0x01#8, f := 0x01#8, pfx := .cb, pc := 0x0101#16, r7 := 0x01#7 }
    (fun t => t.f == 0x81#8 && t.d == 0x80#8 && t.pc == 0x0102#16 && t.qLast && t.r == 0x02#8 &&
      t.pfx == .noPfx) = true := by decide

/-- V46.10, SRA H 81H (R460). -/
theorem test_V46_10 : afterStep { base with
      mem := [(0x0100, 0xCB#8), (0x0101, 0x2C#8)], h := 0x81#8, pfx := .cb, pc := 0x0101#16, r7 := 0x01#7 }
    (fun t => t.f == 0x85#8 && t.h == 0xC0#8 && t.pc == 0x0102#16 && t.qLast && t.r == 0x02#8 &&
      t.pfx == .noPfx) = true := by decide

/-- V46.11, SLL L 00H (R464). -/
theorem test_V46_11 : afterStep { base with
      mem := [(0x0100, 0xCB#8), (0x0101, 0x35#8)], l := 0x00#8, pfx := .cb, pc := 0x0101#16, r7 := 0x01#7 }
    (fun t => t.f == 0x00#8 && t.l == 0x01#8 && t.pc == 0x0102#16 && t.qLast && t.r == 0x02#8 &&
      t.pfx == .noPfx) = true := by decide

/-- V46.14, RLC (IX+2),B (DD CB 02 00) (R443). -/
theorem test_V46_14 : afterStep { base with
      mem := [(0x0100, 0xDD#8), (0x0101, 0xCB#8), (0x0102, 0x02#8), (0x2002, 0x81#8)], ix := 0x2000#16, pfx := .dd
      pc := 0x0101#16, r7 := 0x01#7 }
    (fun t => t.f == 0x05#8 && t.b == 0x03#8 && t.pc == 0x0104#16 && t.memptr == 0x2002#16 && t.qLast && t.r == 0x02#8 &&
      t.peek 0x2002#16 == 0x03#8 && t.pfx == .noPfx) = true := by decide

/-- V46.15, SRL (IY-1),A (FD CB FF 3F) (R471). -/
theorem test_V46_15 : afterStep { base with
      mem := [(0x0100, 0xFD#8), (0x0101, 0xCB#8), (0x0102, 0xFF#8), (0x0103, 0x3F#8), (0x2000, 0x02#8)], iy := 0x2001#16
      pfx := .fd, pc := 0x0101#16, r7 := 0x01#7 }
    (fun t => t.a == 0x01#8 && t.f == 0x00#8 && t.pc == 0x0104#16 && t.memptr == 0x2000#16 && t.qLast && t.r == 0x02#8 &&
      t.peek 0x2000#16 == 0x01#8 && t.pfx == .noPfx) = true := by decide

/-- V46.16, RLD (R472). -/
theorem test_V46_16 : afterStep { base with
      mem := [(0x0100, 0xED#8), (0x0101, 0x6F#8), (0x2000, 0x34#8)], a := 0x12#8, h := 0x20#8, l := 0x00#8, pfx := .ed
      pc := 0x0101#16, r7 := 0x01#7 }
    (fun t => t.a == 0x13#8 && t.f == 0x00#8 && t.pc == 0x0102#16 && t.memptr == 0x2001#16 && t.qLast && t.r == 0x02#8 &&
      t.peek 0x2000#16 == 0x42#8 && t.pfx == .noPfx) = true := by decide

/-- V46.17, RRD (R473). -/
theorem test_V46_17 : afterStep { base with
      mem := [(0x0100, 0xED#8), (0x0101, 0x67#8), (0x2000, 0x34#8)], a := 0x12#8, h := 0x20#8, l := 0x00#8, pfx := .ed
      pc := 0x0101#16, r7 := 0x01#7 }
    (fun t => t.a == 0x14#8 && t.f == 0x04#8 && t.pc == 0x0102#16 && t.memptr == 0x2001#16 && t.qLast && t.r == 0x02#8 &&
      t.peek 0x2000#16 == 0x23#8 && t.pfx == .noPfx) = true := by decide

/-- V47.1, BIT 7,A 80H (R480). -/
theorem test_V47_1 : afterStep { base with
      mem := [(0x0100, 0xCB#8), (0x0101, 0x7F#8)], a := 0x80#8, pfx := .cb, pc := 0x0101#16, r7 := 0x01#7 }
    (fun t => t.f == 0x90#8 && t.pc == 0x0102#16 && t.qLast && t.r == 0x02#8 && t.pfx == .noPfx) = true := by decide

/-- V47.4, BIT 3,(HL) (Y, X from MEMPTR) (R481). -/
theorem test_V47_4 : afterStep { base with
      mem := [(0x0100, 0xCB#8), (0x0101, 0x5E#8), (0x2000, 0x08#8)], h := 0x20#8, l := 0x00#8, memptr := 0x2800#16
      pfx := .cb, pc := 0x0101#16, r7 := 0x01#7 }
    (fun t => t.f == 0x38#8 && t.pc == 0x0102#16 && t.qLast && t.r == 0x02#8 && t.pfx == .noPfx) = true := by decide

/-- V47.5, BIT 0,(IX+10H) (Y, X from EA) (R482). -/
theorem test_V47_5 : afterStep { base with
      mem := [(0x0100, 0xDD#8), (0x0101, 0xCB#8), (0x0102, 0x10#8), (0x0103, 0x46#8)], ix := 0x27F0#16, pfx := .dd
      pc := 0x0101#16, r7 := 0x01#7 }
    (fun t => t.f == 0x7C#8 && t.pc == 0x0104#16 && t.memptr == 0x2800#16 && t.qLast && t.r == 0x02#8 &&
      t.pfx == .noPfx) = true := by decide

/-- V47.7, RES 7,A (R483). -/
theorem test_V47_7 : afterStep { base with
      mem := [(0x0100, 0xCB#8), (0x0101, 0xBF#8)], a := 0xFF#8, pfx := .cb, pc := 0x0101#16, r7 := 0x01#7 }
    (fun t => t.a == 0x7F#8 && t.f == 0x00#8 && t.pc == 0x0102#16 && t.r == 0x02#8 && t.pfx == .noPfx) = true := by decide

/-- V47.9, RES 7,(IX-1),A (R486). -/
theorem test_V47_9 : afterStep { base with
      mem := [(0x0100, 0xDD#8), (0x0101, 0xCB#8), (0x0102, 0xFF#8), (0x0103, 0xBF#8), (0x2000, 0xFF#8)], ix := 0x2001#16
      pfx := .dd, pc := 0x0101#16, r7 := 0x01#7 }
    (fun t => t.a == 0x7F#8 && t.f == 0x00#8 && t.pc == 0x0104#16 && t.memptr == 0x2000#16 && t.r == 0x02#8 &&
      t.peek 0x2000#16 == 0x7F#8 && t.pfx == .noPfx) = true := by decide

/-- V48.2, JP NZ,1234H, not taken (R501). -/
theorem test_V48_2 : afterStep { base with mem := [(0x0100, 0xC2#8), (0x0101, 0x34#8), (0x0102, 0x12#8)], f := 0x40#8 }
    (fun t => t.f == 0x40#8 && t.pc == 0x0103#16 && t.memptr == 0x1234#16 && t.r == 0x01#8 &&
      t.pfx == .noPfx) = true := by decide

/-- V48.4, JR -2 (to itself) (R502). -/
theorem test_V48_4 : afterStep { base with mem := [(0x0100, 0x18#8), (0x0101, 0xFE#8)] }
    (fun t => t.f == 0x00#8 && t.memptr == 0x0100#16 && t.r == 0x01#8 && t.pfx == .noPfx) = true := by decide

/-- V48.5, JR C,+10H, not taken (R503). -/
theorem test_V48_5 : afterStep { base with mem := [(0x0100, 0x38#8), (0x0101, 0x10#8)], memptr := 0x5555#16 }
    (fun t => t.f == 0x00#8 && t.pc == 0x0102#16 && t.r == 0x01#8 && t.pfx == .noPfx) = true := by decide

/-- V48.8, DJNZ -2, B=1 (falls through) (R506). -/
theorem test_V48_8 : afterStep { base with mem := [(0x0100, 0x10#8), (0x0101, 0xFE#8)], b := 0x01#8 }
    (fun t => t.f == 0x00#8 && t.b == 0x00#8 && t.pc == 0x0102#16 && t.r == 0x01#8 && t.pfx == .noPfx) = true := by decide

/-- V48.9, DJNZ -2, B=0 (256 iterations) (R506). -/
theorem test_V48_9 : afterStep { base with mem := [(0x0100, 0x10#8), (0x0101, 0xFE#8)], b := 0x00#8 }
    (fun t => t.f == 0x00#8 && t.b == 0xFF#8 && t.memptr == 0x0100#16 && t.r == 0x01#8 &&
      t.pfx == .noPfx) = true := by decide

/-- V48.10, CALL 2000H (R507). -/
theorem test_V48_10 : afterStep { base with mem := [(0x0100, 0xCD#8), (0x0102, 0x20#8)] }
    (fun t => t.f == 0x00#8 && t.sp == 0xFEFE#16 && t.pc == 0x2000#16 && t.memptr == 0x2000#16 && t.r == 0x01#8 &&
      t.peek 0xFEFF#16 == 0x01#8 && t.peek 0xFEFE#16 == 0x03#8 && t.pfx == .noPfx) = true := by decide

/-- V48.12, RET (R509). -/
theorem test_V48_12 : afterStep { base with mem := [(0x0100, 0xC9#8), (0xFF00, 0x34#8), (0xFF01, 0x12#8)] }
    (fun t => t.f == 0x00#8 && t.sp == 0xFF02#16 && t.pc == 0x1234#16 && t.memptr == 0x1234#16 && t.r == 0x01#8 &&
      t.pfx == .noPfx) = true := by decide

/-- V48.14, RETI (IFF1 <- IFF2) (R511). -/
theorem test_V48_14 : afterStep { base with
      mem := [(0x0100, 0xED#8), (0x0101, 0x4D#8), (0xFF00, 0x34#8), (0xFF01, 0x12#8)], iff2 := true, pfx := .ed
      pc := 0x0101#16, r7 := 0x01#7 }
    (fun t => t.f == 0x00#8 && t.sp == 0xFF02#16 && t.pc == 0x1234#16 && t.memptr == 0x1234#16 && t.iff1 && t.r == 0x02#8 &&
      t.pfx == .noPfx) = true := by decide

/-- V48.16, RST 38H (R513). -/
theorem test_V48_16 : afterStep { base with mem := [(0x0100, 0xFF#8)] }
    (fun t => t.f == 0x00#8 && t.sp == 0xFEFE#16 && t.pc == 0x0038#16 && t.memptr == 0x0038#16 && t.r == 0x01#8 &&
      t.peek 0xFEFF#16 == 0x01#8 && t.peek 0xFEFE#16 == 0x01#8 && t.pfx == .noPfx) = true := by decide

/-- V49.1, IN A,(FEH) (R530). -/
theorem test_V49_1 : afterStep { base with mem := [(0x0100, 0xDB#8), (0x0101, 0xFE#8)], a := 0x12#8, portInputs := [0x5A#8] }
    (fun t => t.a == 0x5A#8 && t.f == 0x00#8 && t.pc == 0x0102#16 && t.memptr == 0x12FF#16 && t.r == 0x01#8 &&
      t.history.contains (.portRead 0x12FE#16 0x5A#8) && t.pfx == .noPfx) = true := by decide

/-- V49.3, IN B,(C) returns 00H (R531). -/
theorem test_V49_3 : afterStep { base with
      mem := [(0x0100, 0xED#8), (0x0101, 0x40#8)], b := 0x12#8, c := 0x34#8, f := 0x01#8, pfx := .ed, pc := 0x0101#16
      r7 := 0x01#7, portInputs := [0x00#8] }
    (fun t => t.f == 0x45#8 && t.b == 0x00#8 && t.pc == 0x0102#16 && t.memptr == 0x1235#16 && t.qLast && t.r == 0x02#8 &&
      t.history.contains (.portRead 0x1234#16 0x00#8) && t.pfx == .noPfx) = true := by decide

/-- V49.5, IN (C) returns 28H (R532). -/
theorem test_V49_5 : afterStep { base with
      mem := [(0x0100, 0xED#8), (0x0101, 0x70#8)], b := 0x12#8, c := 0x34#8, a := 0x77#8, f := 0x01#8, pfx := .ed
      pc := 0x0101#16, r7 := 0x01#7, portInputs := [0x28#8] }
    (fun t => t.f == 0x2D#8 && t.pc == 0x0102#16 && t.memptr == 0x1235#16 && t.qLast && t.r == 0x02#8 &&
      t.history.contains (.portRead 0x1234#16 0x28#8) && t.pfx == .noPfx) = true := by decide

/-- V49.6, OUT (FFH),A (R533). -/
theorem test_V49_6 : afterStep { base with mem := [(0x0100, 0xD3#8), (0x0101, 0xFF#8)], a := 0x12#8 }
    (fun t => t.f == 0x00#8 && t.pc == 0x0102#16 && t.memptr == 0x1200#16 && t.r == 0x01#8 &&
      t.history.contains (.portWrite 0x12FF#16 0x12#8) && t.pfx == .noPfx) = true := by decide

/-- V49.8, OUT (C),0 (R535). -/
theorem test_V49_8 : afterStep { base with
      mem := [(0x0100, 0xED#8), (0x0101, 0x71#8)], b := 0x12#8, c := 0x34#8, pfx := .ed, pc := 0x0101#16, r7 := 0x01#7 }
    (fun t => t.f == 0x00#8 && t.pc == 0x0102#16 && t.memptr == 0x1235#16 && t.r == 0x02#8 &&
      t.history.contains (.portWrite 0x1234#16 0x00#8) && t.pfx == .noPfx) = true := by decide

/-- V60.1, IM 1 acceptance after NOP (R606, R612, R614). -/
theorem test_V60_1 : afterStep { base with mem := [], iff1 := true, iff2 := true, im := .im1, intLine := true }
    (fun t => t.f == 0x00#8 && t.sp == 0xFEFE#16 && t.pc == 0x0038#16 && t.memptr == 0x0038#16 && !t.iff1 && !t.iff2 &&
      t.r == 0x02#8 && t.peek 0xFEFF#16 == 0x01#8 && t.peek 0xFEFE#16 == 0x01#8 && t.pfx == .noPfx) = true := by decide

/-- V60.2, IM 2 acceptance, I=80H, ack=FFH (R612, R615). -/
theorem test_V60_2 : afterStep { base with
      mem := [(0x80FF, 0x34#8), (0x8100, 0x12#8)], iff1 := true, iff2 := true, im := .im2, i := 0x80#8, intLine := true
      ackInputs := [0xFF#8] }
    (fun t => t.f == 0x00#8 && t.sp == 0xFEFE#16 && t.pc == 0x1234#16 && t.memptr == 0x1234#16 && !t.iff1 && !t.iff2 &&
      t.r == 0x02#8 && t.peek 0xFEFF#16 == 0x01#8 && t.peek 0xFEFE#16 == 0x01#8 && t.pfx == .noPfx) = true := by decide

/-- V60.3, IM 0 acceptance, ack=CFH (RST 08H) (R613). -/
theorem test_V60_3 : afterStep { base with
      mem := [], iff1 := true, iff2 := true, im := .im0, intLine := true, ackInputs := [0xCF#8] }
    (fun t => t.f == 0x00#8 && t.sp == 0xFEFE#16 && t.pc == 0x0008#16 && t.memptr == 0x0008#16 && !t.iff1 && !t.iff2 &&
      t.r == 0x02#8 && t.peek 0xFEFF#16 == 0x01#8 && t.peek 0xFEFE#16 == 0x01#8 && t.pfx == .noPfx) = true := by decide

/-- V60.4, IM 0 acceptance, ack=00H (not RST) (R613, R601). -/
theorem test_V60_4 : faultOf { base with
      mem := [], iff1 := true, iff2 := true, im := .im0, intLine := true, ackInputs := [0x00#8] } = some (.im0NotRST 0x00#8) := by decide

/-- V60.5, IM 1, intLine=1, IFF1=0: not accepted (R606). -/
theorem test_V60_5 : afterStep { base with mem := [], im := .im1, intLine := true }
    (fun t => t.f == 0x00#8 && t.pc == 0x0101#16 && t.r == 0x01#8 && t.pfx == .noPfx) = true := by decide

/-- V60.6, EI; NOP, intLine=1: after EI only (R620, R388). -/
theorem test_V60_6 : afterStep { base with mem := [(0x0100, 0xFB#8)], im := .im1, intLine := true }
    (fun t => t.f == 0x00#8 && t.pc == 0x0101#16 && t.iff1 && t.iff2 && t.pendingEI && t.r == 0x01#8 &&
      t.pfx == .noPfx) = true := by decide

/-- V60.9, NMI raised before EI completes (R622, R611). -/
theorem test_V60_9 : afterStep { base with mem := [(0x0100, 0xFB#8)], nmiPending := true }
    (fun t => t.f == 0x00#8 && t.sp == 0xFEFE#16 && t.pc == 0x0066#16 && t.memptr == 0x0066#16 && t.iff2 && t.pendingEI &&
      !t.nmiPending && t.r == 0x02#8 && t.peek 0xFEFF#16 == 0x01#8 && t.peek 0xFEFE#16 == 0x01#8 &&
      t.pfx == .noPfx) = true := by decide

/-- V60.13, NMI and INT both pending: NMI wins (R607). -/
theorem test_V60_13 : afterStep { base with
      mem := [], iff1 := true, iff2 := true, im := .im1, intLine := true, nmiPending := true }
    (fun t => t.f == 0x00#8 && t.sp == 0xFEFE#16 && t.pc == 0x0066#16 && t.memptr == 0x0066#16 && !t.iff1 &&
      !t.nmiPending && t.r == 0x02#8 && t.peek 0xFEFF#16 == 0x01#8 && t.peek 0xFEFE#16 == 0x01#8 &&
      t.pfx == .noPfx) = true := by decide

/-- V60.14, prefix holds off INT: DD step (R621). -/
theorem test_V60_14 : afterStep { base with
      mem := [(0x0100, 0xDD#8), (0x0101, 0x23#8)], iff1 := true, iff2 := true, im := .im1, intLine := true }
    (fun t => t.f == 0x00#8 && t.pc == 0x0101#16 && t.r == 0x01#8 && t.pfx == .dd) = true := by decide

/-! ## Witnesses: for every obligation with hypotheses, a concrete input that meets them together; where it has several
clauses, one for each, at boundary values. Each is named after its obligation. -/

/-- A core about to run `LD A,5` at 0x0100. -/
def atLoad : State := { base with mem := [(0x0100, 0x3E#8), (0x0101, 0x05#8)] }

/-- A core about to fetch the prefix byte DD at 0x0100. -/
def atPrefix : State := { base with mem := [(0x0100, 0xDD#8)] }

/-- A core halted at 0xFFFF, the last address. -/
def atHalt : State := { base with mem := [(0xFFFF, 0x76#8)], pc := 0xFFFF#16, halted := true, r7 := 127#7 }

/-- A core with the maskable line asserted and enabled, and an acknowledge byte supplied. -/
def atInt (m : IMode) (ack : Byte) : State :=
  { base with iff1 := true, iff2 := true, intLine := true, im := m, ackInputs := [ack], i := 0xFF#8 }

/-- A core with the byte EI at PC. -/
def atEi : State := { base with mem := [(0x0100, 0xFB#8)] }

theorem witness_ResetOperationAndConstruction :
    ({ base with pinResetReq := true } : State).pinResetReq = true ∧ base.pinResetReq = false := by decide

theorem witness_StepRunsDecodedInstruction :
    (atLoad.bp.contains atLoad.pc = false) ∧
      decodeAt atLoad.pfx (atLoad.peek atLoad.pc) (atLoad.peek (atLoad.pc + 1#16)) (atLoad.peek (atLoad.pc + 2#16)) =
        .ldRN .a 0x05#8 := by decide

theorem witness_StepRunsDecodedInstruction_under_a_prefix :
    let s := { atLoad with pfx := .dd, bp := [0x0100#16] }
    s.pfx ≠ .noPfx ∧ s.bp.contains s.pc = true ∧
      decodeAt s.pfx (s.peek s.pc) (s.peek (s.pc + 1#16)) (s.peek (s.pc + 2#16)) = .fallbackXy .ix 0x3E#8 := by decide

theorem witness_BreakpointSubstitutesForDecodingOnly :
    let s := { atLoad with bp := [0x0100#16], bpHook := [⟨0x0100#16, 0x3E#8, 0x06#8⟩] }
    s.pfx = .noPfx ∧ s.bp.contains s.pc = true ∧ hookResult s.bpHook s.pc (s.peek s.pc) = 0x06#8 ∧
      decodeMain 0x06#8 (s.peek (s.pc + 1#16)) (s.peek (s.pc + 2#16)) = .ldRN .b 0x05#8 := by decide

theorem witness_BreakpointSubstitutesForDecodingOnly_no_entry :
    let s := { atLoad with bp := [0x0100#16], bpHook := [⟨0x0100#16, 0x3F#8, 0x06#8⟩] }
    (∀ e ∈ s.bpHook, e.addr = s.pc → e.op ≠ s.peek s.pc) ∧ s.bp.contains s.pc = true ∧
      hookResult s.bpHook s.pc (s.peek s.pc) = 0x3E#8 := by decide

theorem witness_PrefixByteStepOnlyRecordsThePrefix : ∃ t, step atPrefix = .next t ∧ t.pfx ≠ .noPfx :=
  ⟨_, rfl, by decide⟩

theorem witness_FallbackRunsTheMainTableEntry :
    isFallback 0x00#8 = true ∧ isFallback 0xFF#8 = true ∧ base.bp.contains (base.pc - 1#16) = false ∧
      ({ base with bp := [0x00FF#16] } : State).bp.contains (base.pc - 1#16) = true := by decide

theorem witness_StepFaultsOnlyAtAnIm0Acknowledge :
    faultOf (atInt .im0 0xFE#8) = some (.im0NotRST 0xFE#8) ∧ ackByte (atInt .im0 0xFE#8) = 0xFE#8 := by decide

theorem witness_StepFaultsOnlyAtAnIm0Acknowledge_state :
    ∃ u, exec (atInt .im0 0xFE#8).fetchInstr.1 (atInt .im0 0xFE#8).fetchInstr.2 = .next u ∧ u.pfx = .noPfx ∧
      u.im = .im0 ∧ u.iff1 = true ∧ u.pendingEI = false ∧ u.intLine = true ∧ u.nmiPending = false :=
  ⟨_, rfl, by decide, by decide, by decide, by decide, by decide, by decide⟩

theorem witness_NmiAcceptance :
    ({ atInt .im0 0x00#8 with nmiPending := true, pendingEI := true } : State).nmiPending = true := by decide

theorem witness_MaskableAcceptanceByMode :
    ∀ m : IMode, (atInt m 0xC7#8).nmiPending = false ∧ (atInt m 0xC7#8).iff1 = true ∧ (atInt m 0xC7#8).pendingEI = false ∧
      (atInt m 0xC7#8).intLine = true ∧ (atInt m 0xC7#8).im = m := by
  intro m
  cases m <;> decide

theorem witness_MaskableAcceptanceByMode_im0 :
    ackByte (atInt .im0 0xC7#8) &&& 0xC7#8 = 0xC7#8 ∧ ackByte (atInt .im0 0xFF#8) &&& 0xC7#8 = 0xC7#8 ∧
      ackByte (atInt .im0 0xC6#8) &&& 0xC7#8 ≠ 0xC7#8 := by decide

theorem witness_MaskableAcceptanceByMode_masked :
    base.nmiPending = false ∧ base.iff1 = false ∧ base.intLine = false ∧
      ({ atInt .im1 0xFF#8 with pendingEI := true } : State).pendingEI = true := by decide

theorem witness_EnableDelayHoldsOffOneInstruction :
    atEi.pfx = .noPfx ∧ atEi.bp.contains atEi.pc = false ∧ atEi.peek atEi.pc = 0xFB#8 ∧ atEi.traceEnabled = false ∧
      atEi.nmiPending = false ∧ ({ atEi with nmiPending := true } : State).nmiPending = true := by decide

theorem witness_HaltedForGoodStaysHalted :
    atHalt.halted = true ∧ atHalt.iff1 = false ∧ atHalt.nmiPending = false ∧ atHalt.pfx = .noPfx ∧
      atHalt.bp.contains atHalt.pc = false ∧ atHalt.peek atHalt.pc = 0x76#8 := by decide

theorem witness_RefreshCounterCounting :
    ∃ u t, exec atLoad.fetchInstr.1 atLoad.fetchInstr.2 = .next u ∧ step atLoad = .next t ∧
      atLoad.fetchInstr.1 ≠ .ldRA ∧ u.pfx = .noPfx ∧ u.nmiPending = false :=
  ⟨_, _, rfl, rfl, by decide, by decide, by decide⟩

theorem witness_RefreshCounterCounting_nmi :
    let s := { atLoad with nmiPending := true, r7 := 126#7 }
    ∃ u t, exec s.fetchInstr.1 s.fetchInstr.2 = .next u ∧ step s = .next t ∧ s.fetchInstr.1 ≠ .ldRA ∧
      u.pfx = .noPfx ∧ u.nmiPending = true :=
  ⟨_, _, rfl, rfl, by decide, by decide, by decide⟩

theorem witness_RefreshCounterCounting_int :
    let s := { atLoad with iff1 := true, iff2 := true, intLine := true, im := .im1, ackInputs := [0xFF#8], r7 := 127#7 }
    ∃ u t, exec s.fetchInstr.1 s.fetchInstr.2 = .next u ∧ step s = .next t ∧ s.fetchInstr.1 ≠ .ldRA ∧
      u.pfx = .noPfx ∧ u.iff1 = true ∧ u.pendingEI = false ∧ u.intLine = true :=
  ⟨_, _, rfl, rfl, by decide, by decide, by decide, by decide, by decide⟩

theorem witness_RefreshCounterCounting_prefix :
    ∃ u t, exec atPrefix.fetchInstr.1 atPrefix.fetchInstr.2 = .next u ∧ step atPrefix = .next t ∧
      atPrefix.fetchInstr.1 ≠ .ldRA ∧ u.pfx ≠ .noPfx :=
  ⟨_, _, rfl, rfl, by decide, by decide⟩

theorem witness_NmiThenRetnRestores :
    ({ atHalt with nmiPending := true, sp := 0x0001#16 } : State).mem.wf = true ∧
      ({ atHalt with nmiPending := true, sp := 0x0001#16 } : State).nmiPending = true := by decide

theorem witness_StepKeepsTheInvariant : atLoad.Inv ∧ ∃ t, step atLoad = .next t :=
  ⟨by constructor <;> decide, _, rfl⟩

theorem witness_StepKeepsTheInvariant_enabled : (atInt .im2 0xFF#8).Inv ∧ ∃ t, step (atInt .im2 0xFF#8) = .next t :=
  ⟨by constructor <;> decide, _, rfl⟩

theorem witness_ResetMeetsTheInvariant : ({ atLoad with bp := [0x0000#16, 0xFFFF#16] } : State).Inv := by
  constructor <;> decide

theorem witness_HaltedCoreStandsAtItsHaltByte :
    atHalt.bp = [] ∧ atHalt.halted = true ∧ (atHalt.pfx = .noPfx ∧ atHalt.peek atHalt.pc = 0x76#8) ∧
      ∃ t, step atHalt = .next t :=
  ⟨by decide, by decide, by decide, _, rfl⟩

theorem witness_InterruptRegistersHaveTheirWriters :
    (∃ t, exec .nop base = .next t) ∧
      (∃ t, exec (.fallbackXy .ix 0x00#8) base = .next t) ∧ base.bp.contains (base.pc - 1#16) = false ∧
      isFallback 0x00#8 = true :=
  ⟨⟨_, rfl⟩, ⟨_, rfl⟩, by decide, by decide⟩

theorem witness_ShadowRegistersOnlyExchanged :
    (∃ t, exec .exDeHl base = .next t) ∧ (∃ t, exec (.fallbackXy .iy 0xEB#8) base = .next t) ∧
      (0xEB#8 ≠ 0x08#8 ∧ 0xEB#8 ≠ 0xD9#8 ∧ isFallback 0xEB#8 = true ∧ base.bp.contains (base.pc - 1#16) = false) :=
  ⟨⟨_, rfl⟩, ⟨_, rfl⟩, by decide⟩

theorem witness_IndexRegistersNeedTheirPrefix :
    ∀ p : Pfx, ∃ t, exec (decodeAt p 0x23#8 0x00#8 0x00#8) base = .next t := by
  intro p
  cases p <;> exact ⟨_, rfl⟩

theorem witness_OnlyStoringFormsChangeMemory :
    (∃ t, exec (.ldAtNnHl 0xFFFF#16) base = .next t) ∧ 0x0001#16 ∉ stores (.ldAtNnHl 0xFFFF#16) base ∧
      stores (.ldAtNnHl 0xFFFF#16) base = [0xFFFF#16, 0x0000#16] :=
  ⟨⟨_, rfl⟩, by decide, by decide⟩

theorem witness_StepIgnoresHistoryAndScratch :
    (∃ t, step atLoad = .next t) ∧ step (atInt .im0 0x00#8) = .fault (.im0NotRST 0x00#8) := ⟨⟨_, rfl⟩, rfl⟩

theorem witness_SnapshotRoundTrip :
    let u := { atLoad with a := 0x77#8, pc := 0xFFFF#16, halted := true }
    u ≠ atLoad ∧ u.bp = atLoad.bp ∧ u.traceEnabled = atLoad.traceEnabled ∧ u.mem = atLoad.mem ∧
      u.bpHook = atLoad.bpHook ∧ u.history = atLoad.history ∧ u.portInputs = atLoad.portInputs ∧
      u.ackInputs = atLoad.ackInputs ∧ u.params = atLoad.params ∧ u.portDraws = atLoad.portDraws ∧
      u.ackDraws = atLoad.ackDraws ∧ u.qCur = atLoad.qCur := by decide

theorem witness_HostMovesDoOneThing :
    rising ({ base with bp := [0x0000#16, 0x8000#16, 0xFFFF#16] } : State).bp = true := by decide

theorem witness_HostMovesDoOneThing_supplies_and_memory :
    base.portInputs = [] ∧ base.ackInputs = [] ∧ atHalt.mem.wf = true := by decide

theorem witness_MemoryIsRamAndWordsAreLittleEndian :
    Memory.wf [(0, 0x01#8), (0xFFFF, 0xFF#8)] = true ∧ (0xFFFF#16 : Word) ≠ 0x0000#16 ∧
      (∀ a : Word, Memory.read [] a = Memory.read [] a) ∧ atHalt.mem.wf = true :=
  ⟨by decide, by decide, fun _ => rfl, by decide⟩

theorem witness_PushThenPopReturnsTheWord :
    ({ atHalt with sp := 0x0000#16 } : State).mem.wf = true ∧
      (0x0000#16 : Word) ≠ 0x0000#16 - 1#16 ∧ (0x0000#16 : Word) ≠ 0x0000#16 - 2#16 := by decide

theorem witness_DecodeEncodeRoundTrip :
    (Instr.retn 0#3).wf = true ∧ (Instr.jrCc .c 0x80#8).wf = true ∧ Instr.retn 0#3 ≠ .prefixCb ∧
      Instr.retn 0#3 ≠ .prefixEd ∧ Instr.retn 0#3 ≠ .prefixXy .ix ∧ Instr.retn 0#3 ≠ .prefixCbAfterXy .ix := by decide

theorem witness_EncodeDecodeReproducesTheBytes :
    decode [0x3E#8, 0x05#8, 0xFF#8] = .ok (.ldRN .a 0x05#8, [0xFF#8]) ∧
      4 ≤ [0xFD#8, 0xCB#8, 0xFF#8, 0xFF#8].length := ⟨rfl, by decide⟩

theorem witness_BlockInstructionsRepeatForms :
    let last := { base with b := 0x00#8, c := 0x01#8, a := 0x01#8 }
    let more := { base with b := 0x00#8, c := 0x00#8, a := 0x01#8 }
    last.bc.toNat = 1 ∧ more.bc.toNat ≠ 1 ∧ more.a ≠ more.peek more.hl ∧
      ({ more with a := 0x00#8 } : State).a = more.peek more.hl ∧
      ({ base with b := 0x01#8 } : State).b.toNat = 1 ∧ more.b.toNat ≠ 1 := by decide

theorem witness_JumpResults :
    holds .z 0x40#8 = true ∧ holds .nz 0x40#8 = false ∧ ({ base with b := 0x01#8 } : State).b.toNat = 1 ∧
      base.b.toNat ≠ 1 := by decide

theorem witness_CallAndReturnResults :
    holds .m 0x80#8 = true ∧ holds .p 0x80#8 = false ∧ holds .pe 0x04#8 = true ∧ holds .po 0x04#8 = false := by decide

theorem witness_DecimalAdjustIsBcdCorrect :
    99 < 100 ∧ ({ base with a := 0x99#8 } : State).a = BitVec.ofNat 8 (99 / 10 * 16 + 99 % 10) := by decide

end Sys2Proof.Tests
end

section
/-! SUPPORT. No step reads the history (20_memory.md R98) or the value `qCur` had before it (30_encoding.md R130): every
operation commutes with putting older events below the history, and the opcode fetch clears `qCur` before anything reads
it. Two states that differ in these fields alone are then one state with two pasts. -/

namespace Sys2Proof.Machine

/-! ## Older events below a state's history -/

/-- The state with the events `old` below everything its history holds. -/
def State.withOlder (s : State) (old : List Event) : State := { s with history := s.history ++ old }

/-- An outcome with the events `old` below the history of its state; a fault and a refusal hold no state. -/
def Result.withOlder (o : Result) (old : List Event) : Result :=
  match o with
  | .next t => .next (t.withOlder old)
  | .fault r => .fault r
  | .refused r => .refused r

section
variable (s : State) (old : List Event)

@[simp] theorem State.withOlder_a : (s.withOlder old).a = s.a := rfl
@[simp] theorem State.withOlder_f : (s.withOlder old).f = s.f := rfl
@[simp] theorem State.withOlder_b : (s.withOlder old).b = s.b := rfl
@[simp] theorem State.withOlder_pc : (s.withOlder old).pc = s.pc := rfl
@[simp] theorem State.withOlder_im : (s.withOlder old).im = s.im := rfl
@[simp] theorem State.withOlder_pfx : (s.withOlder old).pfx = s.pfx := rfl
@[simp] theorem State.withOlder_bp : (s.withOlder old).bp = s.bp := rfl
@[simp] theorem State.withOlder_traceEnabled : (s.withOlder old).traceEnabled = s.traceEnabled := rfl
@[simp] theorem State.withOlder_bc : (s.withOlder old).bc = s.bc := rfl
@[simp] theorem State.withOlder_peek (a : Word) : (s.withOlder old).peek a = s.peek a := rfl

/-! ## The shared operations with a choice: a supply, a repeat, a breakpoint, a number of operands

An operation without a choice commutes by `rfl`, since it puts its events on top of whatever history it finds. -/

theorem State.portRead_withOlder (p : Word) :
    (s.withOlder old).portRead p = ((s.portRead p).1, (s.portRead p).2.withOlder old) := by
  simp only [State.portRead_eq]; rfl

theorem State.repeatUnless_withOlder (done : Bool) :
    (s.withOlder old).repeatUnless done = (s.repeatUnless done).withOlder old := by
  cases done <;> rfl

theorem State.consultBp_withOlder (a : Word) (op : Byte) :
    (s.withOlder old).consultBp a op = ((s.consultBp a op).1, (s.consultBp a op).2.withOlder old) := by
  unfold State.consultBp
  rw [State.withOlder_bp]
  cases s.bp.contains a <;> rfl

theorem State.fetchOperands_withOlder (n : Nat) :
    (s.withOlder old).fetchOperands n = (s.fetchOperands n).withOlder old := by
  induction n generalizing s with
  | zero => rfl
  | succ n ih => exact ih s.imm8.2

/-! ## The instructions with a choice: a tested condition, a port read, a repeat -/

theorem execJrCc_withOlder (cc : Cond) (e : Byte) :
    execJrCc cc e (s.withOlder old) = Result.withOlder (execJrCc cc e s) old := by
  unfold execJrCc
  rw [State.withOlder_f]
  cases condHolds cc s.f <;> rfl

theorem execJpCcNn_withOlder (cc : Cond) (nn : Word) :
    execJpCcNn cc nn (s.withOlder old) = Result.withOlder (execJpCcNn cc nn s) old := by
  unfold execJpCcNn
  dsimp only [State.withOlder_f]
  cases condHolds cc s.f <;> rfl

theorem execCallCcNn_withOlder (cc : Cond) (nn : Word) :
    execCallCcNn cc nn (s.withOlder old) = Result.withOlder (execCallCcNn cc nn s) old := by
  unfold execCallCcNn
  dsimp only [State.withOlder_f]
  cases condHolds cc s.f <;> rfl

theorem execRetCc_withOlder (cc : Cond) :
    execRetCc cc (s.withOlder old) = Result.withOlder (execRetCc cc s) old := by
  unfold execRetCc
  rw [State.withOlder_f]
  cases condHolds cc s.f <;> rfl

theorem execDjnz_withOlder (e : Byte) : execDjnz e (s.withOlder old) = Result.withOlder (execDjnz e s) old := by
  unfold execDjnz
  dsimp only [State.withOlder_b]
  split <;> rfl

theorem State.inFromC_withOlder : (s.withOlder old).inFromC = (s.inFromC.1, s.inFromC.2.withOlder old) := by
  unfold State.inFromC
  rw [State.withOlder_bc, State.portRead_withOlder]
  rfl

theorem execInAAtN_withOlder (n : Byte) :
    execInAAtN n (s.withOlder old) = Result.withOlder (execInAAtN n s) old := by
  unfold execInAAtN
  dsimp only
  rw [State.withOlder_a, State.portRead_withOlder]
  rfl

theorem execInRC_withOlder (r : Reg8) : execInRC r (s.withOlder old) = Result.withOlder (execInRC r s) old := by
  unfold execInRC
  rw [State.inFromC_withOlder]
  cases r <;> rfl

theorem execInC_withOlder : execInC (s.withOlder old) = Result.withOlder (execInC s) old := by
  unfold execInC
  rw [State.inFromC_withOlder]
  rfl

theorem State.blockIn_withOlder (decrement : Bool) :
    (s.withOlder old).blockIn decrement = (s.blockIn decrement).withOlder old := by
  unfold State.blockIn
  rw [State.withOlder_bc, State.portRead_withOlder]
  rfl

theorem State.blockInRepeat_withOlder (decrement : Bool) :
    (s.withOlder old).blockInRepeat decrement = (s.blockInRepeat decrement).withOlder old := by
  unfold State.blockInRepeat
  rw [State.blockIn_withOlder]
  exact State.repeatUnless_withOlder ..

theorem State.blockLoadRepeat_withOlder (decrement : Bool) :
    (s.withOlder old).blockLoadRepeat decrement = (s.blockLoadRepeat decrement).withOlder old :=
  State.repeatUnless_withOlder (s.blockLoad decrement) old ((s.blockLoad decrement).bc = 0#16)

theorem State.blockCompareRepeat_withOlder (decrement : Bool) :
    (s.withOlder old).blockCompareRepeat decrement = (s.blockCompareRepeat decrement).withOlder old :=
  State.repeatUnless_withOlder (s.blockCompare decrement).2 old
    ((s.blockCompare decrement).2.bc = 0#16 || (s.blockCompare decrement).1 = 0#8)

theorem State.blockOutRepeat_withOlder (decrement : Bool) :
    (s.withOlder old).blockOutRepeat decrement = (s.blockOutRepeat decrement).withOlder old :=
  State.repeatUnless_withOlder (s.blockOut decrement) old ((s.blockOut decrement).b = 0#8)

end

/-! ## Every instruction -/

theorem exec_withOlder_of_isSimple (i : Instr) (s : State) (old : List Event) (hs : isSimple i = true) :
    exec i (s.withOlder old) = Result.withOlder (exec i s) old := by
  cases i
  -- the two rows that run another entry
  case fallbackXy | prefixCbAfterXy => cases hs
  -- a test of a condition or of B
  case jrCc cc e => exact execJrCc_withOlder s old cc e
  case jpCcNn cc nn => exact execJpCcNn_withOlder s old cc nn
  case callCcNn cc nn => exact execCallCcNn_withOlder s old cc nn
  case retCc cc => exact execRetCc_withOlder s old cc
  case djnz e => exact execDjnz_withOlder s old e
  -- a port read
  case inAAtN n => exact execInAAtN_withOlder s old n
  case inRC r => exact execInRC_withOlder s old r
  case inC => exact execInC_withOlder s old
  case ini => exact congrArg Host.Outcome.next (s.blockIn_withOlder old false)
  case ind => exact congrArg Host.Outcome.next (s.blockIn_withOlder old true)
  -- a repeat
  case inir => exact congrArg Host.Outcome.next (s.blockInRepeat_withOlder old false)
  case indr => exact congrArg Host.Outcome.next (s.blockInRepeat_withOlder old true)
  case ldir => exact congrArg Host.Outcome.next (s.blockLoadRepeat_withOlder old false)
  case lddr => exact congrArg Host.Outcome.next (s.blockLoadRepeat_withOlder old true)
  case cpir => exact congrArg Host.Outcome.next (s.blockCompareRepeat_withOlder old false)
  case cpdr => exact congrArg Host.Outcome.next (s.blockCompareRepeat_withOlder old true)
  case otir => exact congrArg Host.Outcome.next (s.blockOutRepeat_withOlder old false)
  case otdr => exact congrArg Host.Outcome.next (s.blockOutRepeat_withOlder old true)
  -- a destination that an operand names
  case incR r | decR r | ldRN r _ | ldRAtHl r | ldRR r _ | ldRAtXyD _ r _ | ldRXyHalf _ r _
      | rlcR r | rrcR r | rlR r | rrR r | slaR r | sraR r | sllR r | srlR r | resR _ r | setR _ r
      | rlcAtXyDR _ _ r | rrcAtXyDR _ _ r | rlAtXyDR _ _ r | rrAtXyDR _ _ r | slaAtXyDR _ _ r | sraAtXyDR _ _ r
      | sllAtXyDR _ _ r | srlAtXyDR _ _ r | resAtXyDR _ _ _ r | setAtXyDR _ _ _ r => cases r <;> rfl
  case ldRpNn rp _ | incRp rp | decRp rp | ldRpAtNn rp _ | popRp2 rp => cases rp <;> rfl
  case addXyRp xy _ | ldXyNn xy _ | ldXyAtNn xy _ | incXy xy | decXy xy | popXy xy | exAtSpXy xy => cases xy <;> rfl
  case incXyHalf xy half | decXyHalf xy half | ldXyHalfN xy half _ | ldXyHalfR xy half _ =>
    cases xy <;> cases half <;> rfl
  -- no choice
  all_goals rfl

/-- No instruction reads the history. -/
theorem exec_withOlder (i : Instr) (s : State) (old : List Event) :
    exec i (s.withOlder old) = Result.withOlder (exec i s) old := by
  cases i
  case fallbackXy xy op =>
    simp only [exec_fallbackXy, State.withOlder_pc, State.withOlder_peek, State.consultBp_withOlder,
      State.fetchOperands_withOlder]
    exact exec_withOlder_of_isSimple _ _ old (isSimple_decodeMain ..)
  case prefixCbAfterXy xy =>
    rw [exec_prefixCbAfterXy, exec_prefixCbAfterXy, State.fetchOperands_withOlder]
    exact exec_withOlder_of_isSimple _ _ old (isSimple_decodeIndexCB ..)
  all_goals exact exec_withOlder_of_isSimple _ s old rfl

/-! ## The opcode fetch -/

/-- Step (3) of `Step()`: the opcode to decode for byte `op` at address `a`; no breakpoint counts while `pfx` is set (R132). -/
def State.substitute (s : State) (a : Word) (op : Byte) : Byte × State :=
  if s.pfx = .noPfx then s.consultBp a op else (op, s)

/-- The end of the opcode fetch: PC past the byte, `qCur` cleared (R130). -/
def State.pastOpcode (s : State) : State := { s with pc := s.pc + 1#16, qCur := false }

section
variable (s : State) (old : List Event)

theorem State.fetchOpcode_eq_substitute :
    s.fetchOpcode = Prod.map id pastOpcode ((s.fetchOp s.pc).2.incR.substitute s.pc (s.peek s.pc)) := rfl

theorem State.substitute_withOlder (a : Word) (op : Byte) :
    (s.withOlder old).substitute a op = ((s.substitute a op).1, (s.substitute a op).2.withOlder old) := by
  unfold State.substitute
  rw [State.withOlder_pfx, State.consultBp_withOlder]
  split <;> rfl

theorem State.substitute_qCur (q : Bool) (a : Word) (op : Byte) :
    State.substitute { s with qCur := q } a op = ((s.substitute a op).1, { (s.substitute a op).2 with qCur := q }) := by
  unfold State.substitute State.consultBp
  dsimp only
  split
  · split <;> rfl
  · rfl

theorem State.fetchOpcode_withOlder :
    (s.withOlder old).fetchOpcode = (s.fetchOpcode.1, s.fetchOpcode.2.withOlder old) := by
  rw [fetchOpcode_eq_substitute, fetchOpcode_eq_substitute]
  exact congrArg (Prod.map id pastOpcode) ((s.fetchOp s.pc).2.incR.substitute_withOlder old s.pc (s.peek s.pc))

/-- The opcode fetch clears `qCur` and reads nothing of it. -/
theorem State.fetchOpcode_qCur (q : Bool) : State.fetchOpcode { s with qCur := q } = s.fetchOpcode := by
  rw [fetchOpcode_eq_substitute, fetchOpcode_eq_substitute]
  have h := congrArg (Prod.map id pastOpcode) ((s.fetchOp s.pc).2.incR.substitute_qCur q s.pc (s.peek s.pc))
  exact h

theorem State.fetchInstr_withOlder : (s.withOlder old).fetchInstr = (s.fetchInstr.1, s.fetchInstr.2.withOlder old) := by
  unfold State.fetchInstr
  rw [State.fetchOpcode_withOlder]
  exact congrArg (Prod.mk s.fetchInstr.1)
    (State.fetchOperands_withOlder s.fetchOpcode.2.leavePrefix old s.fetchInstr.1.operandBytes)

/-! ## The boundary and the sampling of interrupts -/

theorem State.drawAck_withOlder :
    (s.withOlder old).drawAck = (s.drawAck.1, s.drawAck.2.withOlder old) := by
  simp only [State.drawAck_eq]; rfl

theorem State.enterInterrupt_withOlder (iff2 : Bool) :
    (s.withOlder old).enterInterrupt iff2 = (s.enterInterrupt iff2).withOlder old := by
  simp only [State.enterInterrupt_eq]; rfl

theorem State.acceptINT_withOlder : (s.withOlder old).acceptINT = Result.withOlder s.acceptINT old := by
  unfold State.acceptINT
  rw [State.drawAck_withOlder]
  dsimp only
  rw [State.enterInterrupt_withOlder, State.withOlder_im]
  cases (s.drawAck.2.enterInterrupt false).im with
  | im0 => dsimp only; split <;> rfl
  | im1 => rfl
  | im2 => rfl

theorem State.acceptNMI_withOlder : (s.withOlder old).acceptNMI = s.acceptNMI.withOlder old :=
  congrArg (State.vectorTo · Config.nmiVector) (State.enterInterrupt_withOlder (s.fetchOp s.pc).2 old s.iff2)

theorem State.sampleInterrupts_of_nmi (hn : s.nmiPending = true) :
    s.sampleInterrupts = .next (State.acceptNMI { s with nmiPending := false }) := if_pos hn

theorem State.sampleInterrupts_of_int (hn : ¬ s.nmiPending = true)
    (hi : (s.iff1 && !s.pendingEI && s.intLine) = true) : s.sampleInterrupts = s.acceptINT :=
  (if_neg hn).trans (if_pos hi)

theorem State.sampleInterrupts_of_none (hn : ¬ s.nmiPending = true)
    (hi : ¬ (s.iff1 && !s.pendingEI && s.intLine) = true) : s.sampleInterrupts = .next s :=
  (if_neg hn).trans (if_neg hi)

theorem State.sampleInterrupts_withOlder :
    (s.withOlder old).sampleInterrupts = Result.withOlder s.sampleInterrupts old := by
  by_cases hn : s.nmiPending = true
  · rw [s.sampleInterrupts_of_nmi hn, (s.withOlder old).sampleInterrupts_of_nmi hn]
    exact congrArg Host.Outcome.next (State.acceptNMI_withOlder { s with nmiPending := false } old)
  · by_cases hi : (s.iff1 && !s.pendingEI && s.intLine) = true
    · rw [s.sampleInterrupts_of_int hn hi, (s.withOlder old).sampleInterrupts_of_int hn hi]
      exact s.acceptINT_withOlder old
    · rw [s.sampleInterrupts_of_none hn hi, (s.withOlder old).sampleInterrupts_of_none hn hi]
      rfl

theorem State.boundary_withOlder : (s.withOlder old).boundary = s.boundary.withOlder old := by
  unfold State.boundary
  dsimp only [State.withOlder_traceEnabled]
  cases s.traceEnabled <;> rfl

theorem State.endStep_withOlder : (s.withOlder old).endStep = Result.withOlder s.endStep old := by
  by_cases h : s.pfx = .noPfx
  · rw [s.endStep_of_boundary h, (s.withOlder old).endStep_of_boundary h, State.boundary_withOlder,
      State.sampleInterrupts_withOlder]
  · rw [s.endStep_of_pending h, (s.withOlder old).endStep_of_pending h]; rfl

/-! ## The step -/

/-- No step reads the history. -/
theorem step_withOlder : step (s.withOlder old) = Result.withOlder (step s) old := by
  unfold step
  rw [State.fetchInstr_withOlder, exec_withOlder]
  cases exec s.fetchInstr.1 s.fetchInstr.2 with
  | next t => exact t.endStep_withOlder old
  | fault r => rfl
  | refused r => rfl

/-- No step reads the value `qCur` had before it. -/
theorem step_qCur (q : Bool) : step { s with qCur := q } = step s := by
  have e : State.fetchInstr { s with qCur := q } = s.fetchInstr := by
    unfold State.fetchInstr
    rw [State.fetchOpcode_qCur]
  unfold step
  rw [e]

end

/-- Settles O26: both states are the state without a history, with two pasts put below it. -/
theorem stepIgnoresHistoryAndScratch : Obligations.StepIgnoresHistoryAndScratch := by
  intro s h q
  let s₀ : State := { s with history := [] }
  have hs : step s = Result.withOlder (step s₀) s.history := step_withOlder s₀ s.history
  have hu : step { s with history := h, qCur := q } = Result.withOlder (step s₀) h :=
    (step_qCur { s with history := h } q).trans (step_withOlder s₀ h)
  rw [hs, hu]
  cases step s₀ with
  | next t₀ =>
    refine ⟨fun t ht => ?_, fun _ hr => (by cases hr)⟩
    cases ht
    exact ⟨t₀.history, rfl, rfl⟩
  | fault r => exact ⟨fun _ ht => (by cases ht), fun _ hr => hr⟩
  | refused r => exact ⟨fun _ ht => (by cases ht), fun _ hr => (by cases hr)⟩

end Sys2Proof.Machine
end

section
/-! SUPPORT. What an instruction leaves of the machine's control state (10_state.md R21, R25, R26, R34 to R42). Nineteen
instructions write a shadow register, I, R, an interrupt latch or mode, the halted flag or the prefix, or run another entry.
Every other one writes only the data registers, PC, MEMPTR, memory, the port supply, the history and the step's `qCur`. -/

namespace Sys2Proof.Machine

/-! ## The control state -/

/-- The fields that an instruction writes only where it is named for it. -/
structure Control where
  altA : Byte
  altF : Byte
  altB : Byte
  altC : Byte
  altD : Byte
  altE : Byte
  altH : Byte
  altL : Byte
  i : Byte
  r7 : BitVec 7
  rhi : Bool
  qLast : Bool
  iff1 : Bool
  iff2 : Bool
  im : IMode
  halted : Bool
  pendingEI : Bool
  intLine : Bool
  nmiPending : Bool
  pfx : Pfx
  pinResetReq : Bool
  bp : List Word
  traceEnabled : Bool
  bpHook : List HookEntry
  ackInputs : List Byte
  params : Params
  ackDraws : Nat

def State.control (s : State) : Control := { s with }

/-- From `s` to `t` the control state is kept, so is the canonical form of memory, and IX and IY are kept but for the one
that `w` names, if any. -/
structure State.DataStep (w : Option IndexReg) (s t : State) : Prop where
  control : t.control = s.control
  memWf : s.mem.wf = true → t.mem.wf = true
  index : ∀ q, w ≠ some q → t.index q = s.index q

/-! ## The operations that keep it: each lemma adds one operation to a run that kept it so far -/

namespace State.DataStep

variable {w : Option IndexReg} {xy : IndexReg} {s t u : State}

theorem refl : s.DataStep w s := ⟨rfl, id, fun _ _ => rfl⟩

theorem ite {p : Prop} [Decidable p] (h : s.DataStep w t) (k : s.DataStep w u) :
    s.DataStep w (if p then t else u) := by
  split
  · exact h
  · exact k

/-- A write of any data fields but memory. -/
theorem update {a f b c d e h l : Byte} {sp pc memptr : Word} {history : List Event} {portInputs : List Byte}
    {portDraws : Nat} {qCur : Bool} (k : s.DataStep w t) :
    s.DataStep w { t with
      a := a, f := f, b := b, c := c, d := d, e := e, h := h, l := l, sp := sp, pc := pc
      memptr := memptr, history := history, portInputs := portInputs, portDraws := portDraws, qCur := qCur } :=
  ⟨k.control, k.memWf, fun q hq => by rw [← k.index q hq]; cases q <;> rfl⟩

theorem memWrite {a : Word} {v : Byte} (k : s.DataStep w t) : s.DataStep w (t.memWrite a v) :=
  ⟨k.control, fun hw => t.wf_memWrite a v (k.memWf hw), fun q hq => by rw [← k.index q hq]; cases q <;> rfl⟩

theorem emit {e : Event} (k : s.DataStep w t) : s.DataStep w (t.emit e) := k.update
theorem setBC {v : Word} (k : s.DataStep w t) : s.DataStep w (t.setBC v) := k.update
theorem setDE {v : Word} (k : s.DataStep w t) : s.DataStep w (t.setDE v) := k.update
theorem setHL {v : Word} (k : s.DataStep w t) : s.DataStep w (t.setHL v) := k.update
theorem setAF8 {o : Out8} (k : s.DataStep w t) : s.DataStep w (t.setAF8 o) := k.update
theorem setFQ {f : Byte} (k : s.DataStep w t) : s.DataStep w (t.setFQ f) := k.update
theorem setF16 {v : Word} {f : Byte} (k : s.DataStep w t) : s.DataStep w (t.setF16 v f) := k.update
theorem jumpRelative {e : Byte} (k : s.DataStep w t) : s.DataStep w (t.jumpRelative e) := k.update

theorem setReg8 {r : Reg8} {v : Byte} (k : s.DataStep w t) : s.DataStep w (t.setReg8 r v) := by
  cases r <;> exact k.update

theorem setRp {p : Rp} {v : Word} (k : s.DataStep w t) : s.DataStep w (t.setRp p v) := by
  cases p <;> exact k.update

theorem setRp2 {p : Rp2} {v : Word} (k : s.DataStep w t) : s.DataStep w (t.setRp2 p v) := by
  cases p <;> exact k.update

theorem setIndex {v : Word} (k : s.DataStep (some xy) t) : s.DataStep (some xy) (t.setIndex xy v) where
  control := by cases xy <;> exact k.control
  memWf := by simpa using k.memWf
  index q hq := (t.index_setIndex_of_ne xy q v fun e => hq (congrArg some e.symm)).trans (k.index q hq)

theorem setHalf {half : Half} {v : Byte} (k : s.DataStep (some xy) t) : s.DataStep (some xy) (t.setHalf xy half v) := by
  cases half <;> exact k.setIndex

theorem memRead16 {a : Word} (k : s.DataStep w t) : s.DataStep w (t.memRead16 a).2 := k.emit.emit

theorem memWrite16 {a v : Word} (k : s.DataStep w t) : s.DataStep w (t.memWrite16 a v) := k.memWrite.memWrite

theorem push16 {v : Word} (k : s.DataStep w t) : s.DataStep w (t.push16 v) := k.update.memWrite.update.memWrite

theorem pop16 (k : s.DataStep w t) : s.DataStep w t.pop16.2 := k.emit.update.emit.update

theorem portRead {p : Word} (k : s.DataStep w t) : s.DataStep w (t.portRead p).2 := by
  rw [State.portRead_eq]
  exact k.update

theorem repeatUnless {done : Bool} (k : s.DataStep w t) : s.DataStep w (t.repeatUnless done) := by
  cases done
  · exact k.update
  · exact k

theorem blockLoad {down : Bool} (k : s.DataStep w t) : s.DataStep w (t.blockLoad down) :=
  k.emit.memWrite.setHL.setDE.setBC.update

theorem blockCompare {down : Bool} (k : s.DataStep w t) : s.DataStep w (t.blockCompare down).2 := k.emit.setHL.setBC.update

theorem blockIn {down : Bool} (k : s.DataStep w t) : s.DataStep w (t.blockIn down) :=
  k.portRead.update.memWrite.setHL.update

theorem blockOut {down : Bool} (k : s.DataStep w t) : s.DataStep w (t.blockOut down) := k.emit.update.emit.update.setHL.update

end State.DataStep

/-! ## Every instruction that is not named for a control field -/

/-- An instruction that leaves the control state alone. -/
def isDataOnly (i : Instr) : Bool :=
  match i with
  | .exAfAf | .exx | .halt | .di | .ei | .reti | .retn _ | .im0 _ | .im1 _ | .im2 _ | .ldIA | .ldRA => false
  | .prefixCb | .prefixEd | .prefixXy _ | .prefixChain _ _ | .prefixEdAfterXy _ => false
  | .prefixCbAfterXy _ | .fallbackXy _ _ => false
  | _ => true

/-- The index register an instruction of one of the five tables writes, if any. -/
def indexWritten (i : Instr) : Option IndexReg :=
  match i with
  | .ldXyNn xy _ | .ldXyAtNn xy _ | .incXy xy | .decXy xy | .addXyRp xy _ | .popXy xy | .exAtSpXy xy => some xy
  | .incXyHalf xy _ | .decXyHalf xy _ | .ldXyHalfN xy _ _ | .ldXyHalfR xy _ _ => some xy
  | _ => none

/-- Such an instruction completes and keeps the control state. -/
theorem exec_dataStep (i : Instr) (s : State) (hi : isDataOnly i = true) :
    ∃ t, exec i s = .next t ∧ s.DataStep (indexWritten i) t := by
  cases i
  -- the writers of control state, and the rows that run another entry
  case exAfAf | exx | halt | di | ei | reti | retn | im0 | im1 | im2 | ldIA | ldRA | prefixCb | prefixEd | prefixXy
      | prefixChain | prefixEdAfterXy | prefixCbAfterXy | fallbackXy => cases hi
  -- loads
  case ldRR | ldRN | ldRXyHalf | resR | setR => exact ⟨_, rfl, .setReg8 .refl⟩
  case ldRAtHl => exact ⟨_, rfl, .setReg8 (.emit .refl)⟩
  case ldRAtXyD => exact ⟨_, rfl, .setReg8 (.emit (.update .refl))⟩
  case ldAtHlR | ldAtHlN => exact ⟨_, rfl, .memWrite .refl⟩
  case ldAtXyDR | ldAtXyDN => exact ⟨_, rfl, .memWrite (.update .refl)⟩
  case ldAAtBc | ldAAtDe | ldAAtNn => exact ⟨_, rfl, .update (.emit .refl)⟩
  case ldAtBcA | ldAtDeA | ldAtNnA => exact ⟨_, rfl, .update (.memWrite .refl)⟩
  case ldXyHalfR | ldXyHalfN => exact ⟨_, rfl, .setHalf .refl⟩
  case ldRpNn | incRp | decRp => exact ⟨_, rfl, .setRp .refl⟩
  case ldXyNn | incXy | decXy => exact ⟨_, rfl, .setIndex .refl⟩
  case ldHlAtNn => exact ⟨_, rfl, .setHL (.update (.memRead16 .refl))⟩
  case ldRpAtNn => exact ⟨_, rfl, .setRp (.update (.memRead16 .refl))⟩
  case ldXyAtNn => exact ⟨_, rfl, .setIndex (.update (.memRead16 .refl))⟩
  case ldAtNnHl | ldAtNnRp | ldAtNnXy => exact ⟨_, rfl, .update (.memWrite16 .refl)⟩
  case pushRp2 | pushXy => exact ⟨_, rfl, .push16 .refl⟩
  case popRp2 => exact ⟨_, rfl, .update (.setRp2 (.pop16 .refl))⟩
  case popXy => exact ⟨_, rfl, .setIndex (.pop16 .refl)⟩
  case exAtSpHl => exact ⟨_, rfl, .setHL (.update (.memWrite (.memWrite (.memRead16 .refl))))⟩
  case exAtSpXy => exact ⟨_, rfl, .setIndex (.update (.memWrite (.memWrite (.memRead16 .refl))))⟩
  -- block instructions
  case ldi | ldd => exact ⟨_, rfl, .blockLoad .refl⟩
  case cpi | cpd => exact ⟨_, rfl, .blockCompare .refl⟩
  case ini | ind => exact ⟨_, rfl, .blockIn .refl⟩
  case outi | outd => exact ⟨_, rfl, .blockOut .refl⟩
  case ldir | lddr => exact ⟨_, rfl, .repeatUnless (.blockLoad .refl)⟩
  case cpir | cpdr => exact ⟨_, rfl, .repeatUnless (.blockCompare .refl)⟩
  case inir | indr => exact ⟨_, rfl, .repeatUnless (.blockIn .refl)⟩
  case otir | otdr => exact ⟨_, rfl, .repeatUnless (.blockOut .refl)⟩
  -- 8-bit arithmetic and logic
  case addAR | addAN | addAXyHalf | adcAR | adcAN | adcAXyHalf | subR | subN | subXyHalf | sbcAR | sbcAN | sbcAXyHalf
      | andR | andN | andXyHalf | xorR | xorN | xorXyHalf | orR | orN | orXyHalf | daa | cpl | neg =>
    exact ⟨_, rfl, .setAF8 .refl⟩
  case addAAtHl | adcAAtHl | subAtHl | sbcAAtHl | andAtHl | xorAtHl | orAtHl => exact ⟨_, rfl, .setAF8 (.emit .refl)⟩
  case addAAtXyD | adcAAtXyD | subAtXyD | sbcAAtXyD | andAtXyD | xorAtXyD | orAtXyD =>
    exact ⟨_, rfl, .setAF8 (.emit (.update .refl))⟩
  case cpAtHl => exact ⟨_, rfl, .update (.emit .refl)⟩
  case cpAtXyD => exact ⟨_, rfl, .update (.emit (.update .refl))⟩
  case incR | decR | rlcR | rrcR | rlR | rrR | slaR | sraR | sllR | srlR => exact ⟨_, rfl, .setFQ (.setReg8 .refl)⟩
  case incAtHl | decAtHl | rlcAtHl | rrcAtHl | rlAtHl | rrAtHl | slaAtHl | sraAtHl | sllAtHl | srlAtHl =>
    exact ⟨_, rfl, .setFQ (.memWrite (.emit .refl))⟩
  case incAtXyD | decAtXyD | rlcAtXyD | rrcAtXyD | rlAtXyD | rrAtXyD | slaAtXyD | sraAtXyD | sllAtXyD | srlAtXyD =>
    exact ⟨_, rfl, .setFQ (.memWrite (.emit (.update .refl)))⟩
  case rlcAtXyDR | rrcAtXyDR | rlAtXyDR | rrAtXyDR | slaAtXyDR | sraAtXyDR | sllAtXyDR | srlAtXyDR =>
    exact ⟨_, rfl, .setReg8 (.setFQ (.memWrite (.emit (.update .refl))))⟩
  case incXyHalf | decXyHalf => exact ⟨_, rfl, .setFQ (.setHalf .refl)⟩
  case rld | rrd => exact ⟨_, rfl, .update (.memWrite (.emit .refl))⟩
  -- bits
  case bitAtHl => exact ⟨_, rfl, .setFQ (.emit .refl)⟩
  case bitAtXyD => exact ⟨_, rfl, .setFQ (.emit (.update .refl))⟩
  case resAtHl | setAtHl => exact ⟨_, rfl, .memWrite (.emit .refl)⟩
  case resAtXyD | setAtXyD => exact ⟨_, rfl, .memWrite (.emit (.update .refl))⟩
  case resAtXyDR | setAtXyDR => exact ⟨_, rfl, .setReg8 (.memWrite (.emit (.update .refl)))⟩
  -- 16-bit arithmetic
  case addHlRp | adcHlRp | sbcHlRp => exact ⟨_, rfl, .setHL (.setF16 .refl)⟩
  case addXyRp => exact ⟨_, rfl, .setIndex (.setF16 .refl)⟩
  -- control transfer
  case jrCc => exact ⟨_, rfl, .ite (.jumpRelative .refl) .refl⟩
  case jpCcNn => exact ⟨_, rfl, .ite (.update (.update .refl)) (.update .refl)⟩
  case djnz => exact ⟨_, rfl, .ite (.update .refl) (.jumpRelative (.update .refl))⟩
  case callNn => exact ⟨_, rfl, .update (.push16 (.update .refl))⟩
  case rst => exact ⟨_, rfl, .update (.update (.push16 .refl))⟩
  case callCcNn => exact ⟨_, rfl, .ite (.update (.push16 (.update .refl))) (.update .refl)⟩
  case ret => exact ⟨_, rfl, .update (.pop16 .refl)⟩
  case retCc => exact ⟨_, rfl, .ite (.update (.pop16 .refl)) .refl⟩
  -- input and output
  case inAAtN | inC => exact ⟨_, rfl, .update (.portRead .refl)⟩
  case inRC => exact ⟨_, rfl, .setReg8 (.update (.portRead .refl))⟩
  case outAtNA | outCR | outC0 => exact ⟨_, rfl, .update (.emit .refl)⟩
  -- one write of data registers
  all_goals exact ⟨_, rfl, .update .refl⟩

end Sys2Proof.Machine
end

section
/-! SUPPORT. Inversion of `exec` for the control state: what each instruction puts there, and that the two rows which run another
entry do what that entry does. -/

namespace Sys2Proof.Machine

/-! ## What an instruction does to the control state -/

/-- The control state after an instruction of one of the five tables. -/
def controlAfter (i : Instr) (s : State) : Control :=
  match i with
  | .exAfAf => { s.control with altA := s.a, altF := s.f }
  | .exx => { s.control with altB := s.b, altC := s.c, altD := s.d, altE := s.e, altH := s.h, altL := s.l }
  | .halt => { s.control with halted := true }
  | .di => { s.control with iff1 := false, iff2 := false }
  | .ei => { s.control with iff1 := true, iff2 := true, pendingEI := true }
  | .reti | .retn _ => { s.control with iff1 := s.iff2 }
  | .im0 _ => { s.control with im := .im0 }
  | .im1 _ => { s.control with im := .im1 }
  | .im2 _ => { s.control with im := .im2 }
  | .ldIA => { s.control with i := s.a }
  | .ldRA => { s.control with r7 := s.a.extractLsb' 0 7, rhi := s.a.getLsbD 7 }
  | .prefixCb => { s.control with pfx := .cb }
  | .prefixEd | .prefixEdAfterXy _ => { s.control with pfx := .ed }
  | .prefixXy xy | .prefixChain _ xy => { s.control with pfx := xy.pfx }
  | _ => s.control

theorem controlAfter_of_isDataOnly {i : Instr} (s : State) (hi : isDataOnly i = true) : controlAfter i s = s.control := by
  cases i
  case exAfAf | exx | halt | di | ei | reti | retn | im0 | im1 | im2 | ldIA | ldRA | prefixCb | prefixEd | prefixXy
      | prefixChain | prefixEdAfterXy => cases hi
  all_goals rfl

/-- What instruction `i` does from `s` to `t`; `qCur` is touched by no instruction that sets a prefix. -/
structure ExecFacts (i : Instr) (s t : State) : Prop where
  control : t.control = controlAfter i s
  memWf : s.mem.wf = true → t.mem.wf = true
  index : ∀ q, indexWritten i ≠ some q → t.index q = s.index q
  qCur : t.pfx = s.pfx ∨ t.qCur = s.qCur

theorem execFacts_of_isSimple (i : Instr) (s : State) (hs : isSimple i = true) :
    ∃ t, exec i s = .next t ∧ ExecFacts i s t := by
  cases hi : isDataOnly i with
  | true =>
    obtain ⟨t, e, k⟩ := exec_dataStep i s hi
    exact ⟨t, e, k.control.trans (controlAfter_of_isDataOnly s hi).symm, k.memWf, k.index,
      .inl (congrArg Control.pfx k.control)⟩
  | false =>
    have keeps : ∀ t : State, t.ix = s.ix → t.iy = s.iy → ∀ q, t.index q = s.index q := by
      intro t hx hy q
      cases q
      · exact hx
      · exact hy
    cases i
    case exAfAf | exx | halt | di | ei | reti | retn | im0 | im1 | im2 | ldIA | ldRA =>
      exact ⟨_, rfl, rfl, id, fun q _ => keeps _ rfl rfl q, .inl rfl⟩
    case prefixCb | prefixEd | prefixXy | prefixChain | prefixEdAfterXy =>
      exact ⟨_, rfl, rfl, id, fun q _ => keeps _ rfl rfl q, .inr rfl⟩
    case fallbackXy | prefixCbAfterXy => cases hs
    all_goals cases hi

/-- The facts do not depend on the PC and the history that the operand reads left. -/
theorem ExecFacts.of_fetched {i : Instr} {s t : State} {pc : Word} {h : List Event}
    (k : ExecFacts i { s with pc := pc, history := h } t) : ExecFacts i s t where
  control := k.control.trans (by cases i <;> rfl)
  memWf := k.memWf
  index q hq := (k.index q hq).trans (by cases q <;> rfl)
  qCur := k.qCur

/-! ## The two rows that run another entry -/

theorem isDataOnly_decodeIndexCB (xy : IndexReg) (d op : Byte) : isDataOnly (decodeIndexCB xy d op) = true := by
  unfold decodeIndexCB rotAtXyDR rotAtXyD
  repeat' split
  all_goals rfl

theorem indexWritten_decodeIndexCB (xy : IndexReg) (d op : Byte) : indexWritten (decodeIndexCB xy d op) = none := by
  unfold decodeIndexCB rotAtXyDR rotAtXyD
  repeat' split
  all_goals rfl

theorem indexWritten_decodeMain (op o1 o2 : Byte) : indexWritten (decodeMain op o1 o2) = none := by
  unfold decodeMain decodeMain0 decodeMain1 decodeMain2 decodeMain3 aluReg aluAtHl aluImm
  repeat' split
  all_goals rfl

theorem execFacts_prefixCbAfterXy (xy : IndexReg) (s : State) :
    ∃ t, exec (.prefixCbAfterXy xy) s = .next t ∧ ExecFacts (.prefixCbAfterXy xy) s t := by
  obtain ⟨t, e, k⟩ := execFacts_of_isSimple (decodeIndexCB xy (s.peek s.pc) (s.peek (s.pc + 1#16))) (s.fetchOperands 2)
    (isSimple_decodeIndexCB ..)
  rw [State.fetchOperands_two] at e k
  have k := k.of_fetched
  refine ⟨t, by rw [exec_prefixCbAfterXy, State.fetchOperands_two, e], ?_, k.memWf, fun q _ => k.index q ?_, k.qCur⟩
  · exact k.control.trans (controlAfter_of_isDataOnly s (isDataOnly_decodeIndexCB ..))
  · rw [indexWritten_decodeIndexCB]
    exact nofun

/-- The fallback runs a main-table entry, from the PC and history that its operand reads left: the entry of its own byte,
where no breakpoint stands at that byte. -/
theorem exec_fallbackXy_fetched (xy : IndexReg) (op : Byte) (s : State) :
    ∃ op' o1 o2 pc h, exec (.fallbackXy xy op) s = exec (decodeMain op' o1 o2) { s with pc := pc, history := h } ∧
      (s.bp.contains (s.pc - 1#16) = false → op' = op) := by
  obtain ⟨h, eb⟩ := s.consultBp_frame (s.pc - 1#16) op
  obtain ⟨pc, h', ef⟩ := State.fetchOperands_frame (s.consultBp (s.pc - 1#16) op).2
    (decodeMain (s.consultBp (s.pc - 1#16) op).1 (s.peek s.pc) (s.peek (s.pc + 1#16))).operandBytes
  refine ⟨(s.consultBp (s.pc - 1#16) op).1, s.peek s.pc, s.peek (s.pc + 1#16), pc, h' ++ (h ++ s.history), ?_, fun hb => ?_⟩
  · rw [exec_fallbackXy]
    dsimp only
    rw [ef, eb]
  · rw [s.consultBp_of_not_mem _ op hb]

theorem execFacts_fallbackXy {xy : IndexReg} {op : Byte} {s t : State} (h : exec (.fallbackXy xy op) s = .next t) :
    ∃ op' o1 o2, ExecFacts (decodeMain op' o1 o2) s t ∧ (s.bp.contains (s.pc - 1#16) = false → op' = op) := by
  obtain ⟨op', o1, o2, pc, hist, e, hop⟩ := exec_fallbackXy_fetched xy op s
  obtain ⟨u, eu, k⟩ := execFacts_of_isSimple (decodeMain op' o1 o2) { s with pc := pc, history := hist }
    (isSimple_decodeMain ..)
  rw [e, eu] at h
  cases h
  exact ⟨op', o1, o2, k.of_fetched, hop⟩

/-- Every row but the fallback has these facts for itself. -/
theorem execFacts_of_not_fallback {i : Instr} {s t : State} (hf : ∀ xy op, i ≠ .fallbackXy xy op)
    (h : exec i s = .next t) : ExecFacts i s t := by
  obtain ⟨u, e, k⟩ : ∃ u, exec i s = .next u ∧ ExecFacts i s u := by
    cases i
    case fallbackXy xy op => exact absurd rfl (hf xy op)
    case prefixCbAfterXy xy => exact execFacts_prefixCbAfterXy xy s
    all_goals exact execFacts_of_isSimple _ s rfl
  rw [e] at h
  cases h
  exact k

/-! ## The main table's entries for control state -/

/-- The main-table opcodes whose instruction is not data-only, with that instruction (30_encoding.md R150). -/
def controlEntries : List (Byte × Instr) :=
  [(0x08#8, .exAfAf), (0x76#8, .halt), (0xCB#8, .prefixCb), (0xD9#8, .exx), (0xDD#8, .prefixXy .ix), (0xED#8, .prefixEd),
    (0xF3#8, .di), (0xFB#8, .ei), (0xFD#8, .prefixXy .iy)]

theorem isDataOnly_decodeMain_operands (op o1 o2 : Byte) :
    isDataOnly (decodeMain op o1 o2) = isDataOnly (decodeMain op 0#8 0#8) := by
  unfold decodeMain decodeMain0 decodeMain1 decodeMain2 decodeMain3 aluReg aluAtHl aluImm
  repeat' split
  all_goals rfl

theorem isDataOnly_decodeMain_zero : ∀ op : Byte,
    isDataOnly (decodeMain op 0#8 0#8) = true ∨ op ∈ controlEntries.map Prod.fst := by decide

/-- An entry of the main table is data-only or one of the nine. -/
theorem decodeMain_mem_controlEntries (op o1 o2 : Byte) :
    isDataOnly (decodeMain op o1 o2) = true ∨ (op, decodeMain op o1 o2) ∈ controlEntries := by
  rw [isDataOnly_decodeMain_operands]
  refine (isDataOnly_decodeMain_zero op).imp_right fun h => ?_
  simp only [controlEntries, List.map_cons, List.map_nil, List.mem_cons, List.not_mem_nil, or_false] at h
  obtain rfl | rfl | rfl | rfl | rfl | rfl | rfl | rfl | rfl := h <;> exact of_decide_eq_true rfl

/-- The main table holds an instruction that is not data-only at its opcode in `controlEntries` and nowhere else. -/
theorem decodeMain_ne {op o1 o2 : Byte} {i : Instr} (hi : isDataOnly i = false) (hn : (op, i) ∉ controlEntries) :
    decodeMain op o1 o2 ≠ i := by
  rintro rfl
  obtain hd | hm := decodeMain_mem_controlEntries op o1 o2
  · exact Bool.noConfusion (hi.symm.trans hd)
  · exact hn hm

/-- Some entry has these facts: the instruction itself, or the main-table entry that the fallback runs. -/
theorem exists_execFacts {i : Instr} {s t : State} (h : exec i s = .next t) :
    ∃ j, ExecFacts j s t ∧ (j = i ∨ ∃ op o1 o2, j = decodeMain op o1 o2) := by
  by_cases hf : ∃ xy op, i = .fallbackXy xy op
  · obtain ⟨xy, op, rfl⟩ := hf
    obtain ⟨op', o1, o2, k, _⟩ := execFacts_fallbackXy h
    exact ⟨_, k, .inr ⟨op', o1, o2, rfl⟩⟩
  · exact ⟨i, execFacts_of_not_fallback (fun xy op e => hf ⟨xy, op, e⟩) h, .inl rfl⟩

end Sys2Proof.Machine
end

section
/-! SUPPORT. What the other parts of a step change (30_encoding.md R130): the fetch, the boundary and the acceptance of an
interrupt. -/

namespace Sys2Proof.Machine

/-! ## The fetch -/

theorem State.substitute_frame (s : State) (a : Word) (op : Byte) : ∃ h, (s.substitute a op).2 = { s with history := h } := by
  unfold State.substitute
  split
  · obtain ⟨h, e⟩ := s.consultBp_frame a op
    exact ⟨_, e⟩
  · exact ⟨_, rfl⟩

/-- Fetching an instruction counts R, consumes the prefix, and ends the enable delay where no prefix was pending (R131, R133);
beyond that it changes PC, the history and `qCur` only. -/
theorem State.fetchInstr_frame (s : State) :
    ∃ pc h, s.fetchInstr.2 = { s with
      pc := pc, history := h, r7 := s.r7 + 1#7, qCur := false, pfx := .noPfx
      pendingEI := s.pfx != .noPfx && s.pendingEI } := by
  obtain ⟨h, eo⟩ := (s.fetchOp s.pc).2.incR.substitute_frame s.pc (s.peek s.pc)
  have fetched : s.fetchOpcode.2 = { s with history := h, r7 := s.r7 + 1#7, pc := s.pc + 1#16, qCur := false } := by
    rw [State.fetchOpcode_eq_substitute]
    exact congrArg State.pastOpcode eo
  obtain ⟨pc, h', ef⟩ := State.fetchOperands_frame s.fetchOpcode.2.leavePrefix s.fetchInstr.1.operandBytes
  have e : s.fetchInstr.2 = s.fetchOpcode.2.leavePrefix.fetchOperands s.fetchInstr.1.operandBytes := rfl
  refine ⟨pc, h' ++ h, ?_⟩
  rw [e, ef, fetched]
  rfl

/-! ## Acceptance of an interrupt -/

/-- Whether sampling accepts an NMI or the maskable line (60_exceptions.md R606, R607). -/
abbrev State.Interrupted (s : State) : Prop :=
  s.nmiPending = true ∨ (s.iff1 = true ∧ s.pendingEI = false ∧ s.intLine = true)

/-- What an acceptance leaves (R608 to R612): the latches and R written, `iff2` the new IFF2; beyond that only the stack, PC,
MEMPTR, the pending NMI, the history and the acknowledge supply differ. -/
structure State.Accepts (s : State) (iff2 : Bool) (t : State) : Prop where
  frame : t = { s with
    halted := false, r7 := s.r7 + 1#7, iff1 := false, iff2 := iff2, qLast := false
    sp := t.sp, pc := t.pc, memptr := t.memptr, mem := t.mem, nmiPending := t.nmiPending, history := t.history
    ackInputs := t.ackInputs, ackDraws := t.ackDraws }
  memWf : s.mem.wf = true → t.mem.wf = true

theorem State.accepts_acceptNMI (s : State) : s.Accepts s.iff2 (State.acceptNMI { s with nmiPending := false }) := by
  unfold State.acceptNMI State.vectorTo
  dsimp only
  rw [State.enterInterrupt_eq]
  exact ⟨rfl, fun hw => Memory.wf_write _ _ _ (Memory.wf_write _ _ _ hw)⟩

/-- A maskable acceptance that does not fault: the entry, then PC and MEMPTR at the mode's target (R612 to R615). -/
theorem State.acceptINT_next {s t : State} (h : s.acceptINT = .next t) :
    ∃ pc hist, t = { s.drawAck.2.enterInterrupt false with pc := pc, memptr := pc, history := hist } := by
  unfold State.acceptINT at h
  dsimp only at h
  split at h
  · split at h <;> cases h
    exact ⟨_, _, rfl⟩
  · cases h
    exact ⟨_, _, rfl⟩
  · cases h
    exact ⟨_, _, rfl⟩

theorem State.accepts_acceptINT {s t : State} (h : s.acceptINT = .next t) : s.Accepts false t := by
  obtain ⟨pc, hist, rfl⟩ := State.acceptINT_next h
  rw [State.enterInterrupt_eq, State.drawAck_eq]
  exact ⟨rfl, fun hw => Memory.wf_write _ _ _ (Memory.wf_write _ _ _ hw)⟩

/-- Sampling accepts where it may, an NMI keeping IFF2 and the line clearing it, and changes nothing elsewhere. -/
theorem State.sampleInterrupts_next {s t : State} (h : s.sampleInterrupts = .next t) :
    (s.nmiPending = true ∧ s.Accepts s.iff2 t) ∨
    (s.iff1 = true ∧ s.pendingEI = false ∧ s.intLine = true ∧ s.Accepts false t) ∨
    (¬ s.Interrupted ∧ t = s) := by
  obtain ⟨hn, e⟩ | ⟨_, h1, hp, hl, e⟩ | ⟨hn, hno, e⟩ := s.sampleInterrupts_cases
  · rw [e] at h
    cases h
    exact .inl ⟨hn, s.accepts_acceptNMI⟩
  · rw [e] at h
    exact .inr (.inl ⟨h1, hp, hl, State.accepts_acceptINT h⟩)
  · rw [e] at h
    cases h
    refine .inr (.inr ⟨?_, rfl⟩)
    rintro (hn' | ⟨h1, hp, hl⟩)
    · simp [hn] at hn'
    · simp [h1, hp, hl] at hno

/-! ## The step -/

/-- A step that answers a next state ran its instruction to a state `u`, and the end of the step took `u` to its answer. -/
theorem step_next {s t : State} (h : step s = .next t) :
    ∃ u, exec s.fetchInstr.1 s.fetchInstr.2 = .next u ∧ u.endStep = .next t := by
  unfold step at h
  split at h
  · next u e => exact ⟨u, e, h⟩
  · cases h
  · cases h

end Sys2Proof.Machine
end

section
/-! SUPPORT. What every step keeps: the invariant (10_state.md R34, R37, R42; 30_encoding.md R130, R133), the count of R, and the
control registers, shadow registers and index registers that only their own instructions write. -/

namespace Sys2Proof.Machine

/-! ## The invariant -/

/-- What the invariant says of the latches, the enable delay and the prefix. -/
structure Control.Consistent (c : Control) : Prop where
  delayNoPrefix : c.pfx ≠ .noPfx → c.pendingEI = false
  iff1Iff2 : c.iff1 = true → c.iff2 = true
  delayIff2 : c.pendingEI = true → c.iff2 = true

theorem State.Inv.consistent {s : State} (h : s.Inv) : s.control.Consistent :=
  ⟨h.delayNoPrefix, h.iff1Iff2, h.delayIff2⟩

theorem State.inv_of_consistent {s : State} (hm : s.mem.wf = true) (hb : rising s.bp = true) (hq : s.qCur = false)
    (hc : s.control.Consistent) : s.Inv :=
  ⟨hm, hb, hq, hc.delayNoPrefix, hc.iff1Iff2, hc.delayIff2⟩

/-- The fetch ends any enable delay: none runs while a prefix is pending. -/
theorem State.inv_fetchInstr {s : State} (h : s.Inv) :
    s.fetchInstr.2.Inv ∧ s.fetchInstr.2.pfx = .noPfx ∧ s.fetchInstr.2.pendingEI = false := by
  have ended : (s.pfx != .noPfx && s.pendingEI) = false := by
    by_cases hp : s.pfx = .noPfx
    · simp [hp]
    · simp [h.delayNoPrefix hp]
  obtain ⟨pc, hist, e⟩ := s.fetchInstr_frame
  rw [e, ended]
  exact ⟨⟨h.memWf, h.bpRising, rfl, fun _ => rfl, h.iff1Iff2, Bool.noConfusion⟩, rfl, rfl⟩

/-- Only EI starts a delay, and it sets both latches; RETI and RETN copy IFF2; a prefix is set where no delay runs. -/
theorem consistent_controlAfter (i : Instr) {s : State} (h : s.Inv) (hp : s.pfx = .noPfx) (hd : s.pendingEI = false) :
    (controlAfter i s).Consistent := by
  have none_runs : ∀ b, s.pendingEI = true → b = true := fun b e => by simp [hd] at e
  cases i
  case ei => exact ⟨fun hn => absurd hp hn, fun _ => rfl, fun _ => rfl⟩
  case di | reti | retn => exact ⟨h.delayNoPrefix, id, none_runs _⟩
  case prefixCb | prefixEd | prefixXy | prefixChain | prefixEdAfterXy => exact ⟨fun _ => hd, h.iff1Iff2, none_runs _⟩
  all_goals exact ⟨h.delayNoPrefix, h.iff1Iff2, h.delayIff2⟩

theorem controlAfter_bp (i : Instr) (s : State) : (controlAfter i s).bp = s.bp := by
  cases i <;> rfl

/-- Before the boundary the invariant holds, but that `qCur` may be set where no prefix is pending. -/
theorem State.inv_of_exec {i : Instr} {s t : State} (h : s.Inv) (hp : s.pfx = .noPfx) (hd : s.pendingEI = false)
    (e : exec i s = .next t) : State.Inv { t with qCur := false } ∧ (t.pfx ≠ .noPfx → t.qCur = false) := by
  obtain ⟨j, k, -⟩ := exists_execFacts e
  have hb : t.bp = s.bp := (congrArg Control.bp k.control).trans (controlAfter_bp j s)
  have hc : t.control.Consistent := by
    rw [k.control]
    exact consistent_controlAfter j h hp hd
  refine ⟨State.inv_of_consistent (k.memWf h.memWf) (by rw [← h.bpRising, ← hb]) rfl hc, fun hn => ?_⟩
  obtain hk | hk := k.qCur
  · exact absurd (hk.trans hp) hn
  · exact hk.trans h.qCurFalse

theorem State.inv_boundary {s : State} (h : State.Inv { s with qCur := false }) : s.boundary.Inv := by
  rw [State.boundary_eq]
  exact ⟨h.memWf, h.bpRising, rfl, h.delayNoPrefix, h.iff1Iff2, h.delayIff2⟩

/-- An acceptance clears IFF1 and leaves no delay without its IFF2. -/
theorem State.inv_accepts {s t : State} {iff2 : Bool} (h : s.Inv) (k : s.Accepts iff2 t)
    (hd : s.pendingEI = true → iff2 = true) : t.Inv := by
  rw [k.frame]
  exact ⟨k.memWf h.memWf, h.bpRising, h.qCurFalse, h.delayNoPrefix, Bool.noConfusion, hd⟩

theorem State.inv_sampleInterrupts {s t : State} (h : s.Inv) (e : s.sampleInterrupts = .next t) : t.Inv := by
  obtain ⟨_, k⟩ | ⟨_, hp, _, k⟩ | ⟨_, rfl⟩ := State.sampleInterrupts_next e
  · exact State.inv_accepts h k h.delayIff2
  · exact State.inv_accepts h k (by simp [hp])
  · exact h

/-- Settles O19, part of the step by part: fetch, instruction, boundary, sampling. -/
theorem stepKeepsTheInvariant : Obligations.StepKeepsTheInvariant := by
  intro s t h e
  obtain ⟨u, eu, et⟩ := step_next e
  obtain ⟨hv, hp, hd⟩ := State.inv_fetchInstr h
  obtain ⟨hu, hq⟩ := State.inv_of_exec hv hp hd eu
  by_cases hpu : u.pfx = .noPfx
  · rw [u.endStep_of_boundary hpu] at et
    exact State.inv_sampleInterrupts (State.inv_boundary hu) et
  · rw [u.endStep_of_pending hpu] at et
    cases et
    have same : ({ t with qCur := false } : State) = t := by rw [← hq hpu]
    rwa [same] at hu

/-! ## R -/

theorem controlAfter_r {i : Instr} (s : State) (hi : i ≠ .ldRA) :
    (controlAfter i s).r7 = s.r7 ∧ (controlAfter i s).rhi = s.rhi := by
  cases i
  case ldRA => exact absurd rfl hi
  all_goals exact ⟨rfl, rfl⟩

/-- No instruction but LD R,A writes R. -/
theorem r_of_exec {i : Instr} {s t : State} (hi : i ≠ .ldRA) (h : exec i s = .next t) : t.r7 = s.r7 ∧ t.rhi = s.rhi := by
  obtain ⟨j, k, hj⟩ := exists_execFacts h
  have hne : j ≠ .ldRA := by
    obtain rfl | ⟨op, o1, o2, rfl⟩ := hj
    · exact hi
    · exact decodeMain_ne rfl (by simp [controlEntries])
  obtain ⟨h7, hh⟩ := controlAfter_r s hne
  exact ⟨(congrArg Control.r7 k.control).trans h7, (congrArg Control.rhi k.control).trans hh⟩

/-- The boundary counts R once where it accepts. -/
theorem State.r_of_sampleInterrupts {s t : State} (h : s.sampleInterrupts = .next t) :
    t.rhi = s.rhi ∧ t.r7 = s.r7 + if s.Interrupted then 1#7 else 0#7 := by
  obtain ⟨hn, k⟩ | ⟨h1, hp, hl, k⟩ | ⟨hi, rfl⟩ := State.sampleInterrupts_next h
  · rw [if_pos (.inl hn), k.frame]
    exact ⟨rfl, rfl⟩
  · rw [if_pos (.inr ⟨h1, hp, hl⟩), k.frame]
    exact ⟨rfl, rfl⟩
  · rw [if_neg hi, BitVec.add_zero]
    exact ⟨rfl, rfl⟩

/-- Settles O17: the fetch counts R once, the instruction leaves it, and an acceptance at the boundary counts it again. -/
theorem refreshCounterCounting : Obligations.RefreshCounterCounting := by
  intro s u t eu e hi
  obtain ⟨u', eu', et⟩ := step_next e
  rw [eu] at eu'
  cases eu'
  obtain ⟨pc, hist, ef⟩ := s.fetchInstr_frame
  obtain ⟨u7, uh⟩ := r_of_exec hi eu
  rw [ef] at u7 uh
  by_cases hp : u.pfx = .noPfx
  · rw [u.endStep_of_boundary hp, State.boundary_eq] at et
    obtain ⟨th, t7⟩ := State.r_of_sampleInterrupts et
    exact ⟨th.trans uh, by simpa only [hp, true_and, u7] using t7⟩
  · rw [u.endStep_of_pending hp] at et
    cases et
    rw [if_neg fun hn => hp hn.1, BitVec.add_zero]
    exact ⟨uh, u7⟩

/-! ## The registers with writers of their own -/

theorem index_of_exec {i : Instr} {s t : State} {q : IndexReg} (hi : indexWritten i ≠ some q) (h : exec i s = .next t) :
    t.index q = s.index q := by
  obtain ⟨j, k, hj⟩ := exists_execFacts h
  refine k.index q ?_
  obtain rfl | ⟨op, o1, o2, rfl⟩ := hj
  · exact hi
  · rw [indexWritten_decodeMain]
    exact nofun

theorem indexWritten_decodeCB (op : Byte) : indexWritten (decodeCB op) = none := by
  unfold decodeCB rotReg rotAtHl
  repeat' split
  all_goals rfl

theorem indexWritten_decodeED (op o1 o2 : Byte) : indexWritten (decodeED op o1 o2) = none := by
  unfold decodeED decodeED1 decodeED2
  repeat' split
  all_goals rfl

/-- An entry of the DD/FD table writes the index register of its prefix or none. -/
theorem eq_of_indexWritten_decodeIndex (xy : IndexReg) (op o1 o2 : Byte) :
    ∀ q, indexWritten (decodeIndex xy op o1 o2) = some q → q = xy := by
  unfold decodeIndex decodeIndex0 decodeIndex1 decodeIndex2 decodeIndex3 aluXyHalf aluAtXyD decodeIndexCB rotAtXyDR rotAtXyD
  repeat' split
  all_goals rintro q ⟨⟩ <;> rfl

/-- An entry that writes an index register is run under that register's prefix. -/
theorem eq_pfx_of_indexWritten_decodeAt {p : Pfx} {op o1 o2 : Byte} {q : IndexReg}
    (h : indexWritten (decodeAt p op o1 o2) = some q) : p = q.pfx := by
  cases p
  case noPfx => cases (indexWritten_decodeMain op o1 o2).symm.trans h
  case cb => cases (indexWritten_decodeCB op).symm.trans h
  case ed => cases (indexWritten_decodeED op o1 o2).symm.trans h
  case dd => rw [eq_of_indexWritten_decodeIndex .ix op o1 o2 q h]; rfl
  case fd => rw [eq_of_indexWritten_decodeIndex .iy op o1 o2 q h]; rfl

/-- Settles O24: an entry that writes an index register is run under that register's prefix. -/
theorem indexRegistersNeedTheirPrefix : Obligations.IndexRegistersNeedTheirPrefix := by
  intro p op o1 o2 s t h
  have keeps : ∀ q : IndexReg, p ≠ q.pfx → t.index q = s.index q :=
    fun q hq => index_of_exec (mt eq_pfx_of_indexWritten_decodeAt hq) h
  exact ⟨keeps .ix, keeps .iy⟩

section
variable {i : Instr} (s : State)

theorem controlAfter_i (hi : i ≠ .ldIA) : (controlAfter i s).i = s.i := by
  cases i
  case ldIA => exact absurd rfl hi
  all_goals rfl

theorem controlAfter_im (h0 : ∀ d, i ≠ .im0 d) (h1 : ∀ d, i ≠ .im1 d) (h2 : ∀ d, i ≠ .im2 d) :
    (controlAfter i s).im = s.im := by
  cases i
  case im0 d => exact absurd rfl (h0 d)
  case im1 d => exact absurd rfl (h1 d)
  case im2 d => exact absurd rfl (h2 d)
  all_goals rfl

theorem controlAfter_iff2 (hd : i ≠ .di) (he : i ≠ .ei) : (controlAfter i s).iff2 = s.iff2 := by
  cases i
  case di => exact absurd rfl hd
  case ei => exact absurd rfl he
  all_goals rfl

theorem controlAfter_iff1 (hd : i ≠ .di) (he : i ≠ .ei) (hr : i ≠ .reti) (hn : ∀ d, i ≠ .retn d) :
    (controlAfter i s).iff1 = s.iff1 := by
  cases i
  case di => exact absurd rfl hd
  case ei => exact absurd rfl he
  case reti => exact absurd rfl hr
  case retn d => exact absurd rfl (hn d)
  all_goals rfl

theorem controlAfter_halted (hi : i ≠ .halt) : (controlAfter i s).halted = s.halted := by
  cases i
  case halt => exact absurd rfl hi
  all_goals rfl

theorem controlAfter_pendingEI (hi : i ≠ .ei) : (controlAfter i s).pendingEI = s.pendingEI := by
  cases i
  case ei => exact absurd rfl hi
  all_goals rfl

theorem controlAfter_shadow (hi : i ≠ .exAfAf) (hx : i ≠ .exx) :
    let c := controlAfter i s
    c.altA = s.altA ∧ c.altF = s.altF ∧ c.altB = s.altB ∧ c.altC = s.altC ∧ c.altD = s.altD ∧ c.altE = s.altE ∧
      c.altH = s.altH ∧ c.altL = s.altL := by
  cases i
  case exAfAf => exact absurd rfl hi
  case exx => exact absurd rfl hx
  all_goals exact ⟨rfl, rfl, rfl, rfl, rfl, rfl, rfl, rfl⟩

end

/-- Settles O22: `controlAfter` changes a register in its own writers only, and of these the main table, which the fallback
runs, holds DI, EI and HALT alone, each at the byte named. -/
theorem interruptRegistersHaveTheirWriters : Obligations.InterruptRegistersHaveTheirWriters := by
  constructor
  · intro i s t h hf
    have hc := (execFacts_of_not_fallback hf h).control
    refine ⟨fun hi => ?_, fun h0 h1 h2 => ?_, fun hd he => ⟨?_, fun hr hn => ?_⟩, fun hh => ?_, fun he => ?_⟩
    · exact (congrArg Control.i hc).trans (controlAfter_i s hi)
    · exact (congrArg Control.im hc).trans (controlAfter_im s h0 h1 h2)
    · exact (congrArg Control.iff2 hc).trans (controlAfter_iff2 s hd he)
    · exact (congrArg Control.iff1 hc).trans (controlAfter_iff1 s hd he hr hn)
    · exact (congrArg Control.halted hc).trans (controlAfter_halted s hh)
    · exact (congrArg Control.pendingEI hc).trans (controlAfter_pendingEI s he)
  · intro xy op s t h hb _
    obtain ⟨op', o1, o2, k, hop⟩ := execFacts_fallbackXy h
    obtain rfl := hop hb
    have hc := k.control
    refine ⟨?_, ?_, fun hd he => ⟨?_, ?_⟩, fun hh => ?_, fun he => ?_⟩
    · exact (congrArg Control.i hc).trans (controlAfter_i s (decodeMain_ne rfl (by simp [controlEntries])))
    · exact (congrArg Control.im hc).trans (controlAfter_im s (fun _ => decodeMain_ne rfl (by simp [controlEntries]))
        (fun _ => decodeMain_ne rfl (by simp [controlEntries])) (fun _ => decodeMain_ne rfl (by simp [controlEntries])))
    · exact (congrArg Control.iff1 hc).trans (controlAfter_iff1 s (decodeMain_ne rfl (by simp [controlEntries, hd]))
        (decodeMain_ne rfl (by simp [controlEntries, he])) (decodeMain_ne rfl (by simp [controlEntries]))
        (fun _ => decodeMain_ne rfl (by simp [controlEntries])))
    · exact (congrArg Control.iff2 hc).trans (controlAfter_iff2 s (decodeMain_ne rfl (by simp [controlEntries, hd]))
        (decodeMain_ne rfl (by simp [controlEntries, he])))
    · exact (congrArg Control.halted hc).trans (controlAfter_halted s (decodeMain_ne rfl (by simp [controlEntries, hh])))
    · exact (congrArg Control.pendingEI hc).trans (controlAfter_pendingEI s (decodeMain_ne rfl (by simp [controlEntries, he])))

/-- Settles O23: the entry that runs, be it the instruction or the fallback's, is neither exchange. -/
theorem shadowRegistersOnlyExchanged : Obligations.ShadowRegistersOnlyExchanged := by
  intro i s t h hi hx hf
  obtain ⟨j, hc, hj, hjx⟩ : ∃ j, t.control = controlAfter j s ∧ j ≠ .exAfAf ∧ j ≠ .exx := by
    by_cases hfb : ∃ xy op, i = .fallbackXy xy op
    · obtain ⟨xy, op, rfl⟩ := hfb
      obtain ⟨h08, hD9, -, hb⟩ := hf xy op rfl
      obtain ⟨op', o1, o2, k, hop⟩ := execFacts_fallbackXy h
      obtain rfl := hop hb
      exact ⟨_, k.control, decodeMain_ne rfl (by simp [controlEntries, h08]), decodeMain_ne rfl (by simp [controlEntries, hD9])⟩
    · exact ⟨i, (execFacts_of_not_fallback (fun xy op e => hfb ⟨xy, op, e⟩) h).control, hi, hx⟩
  have shadow := controlAfter_shadow s hj hjx
  rw [← hc] at shadow
  exact shadow

end Sys2Proof.Machine
end

section
/-! SUPPORT. The words of the statements and the model's own operations: the two ways to write a byte, a word, an address, a
condition, the flags of a result, and the state after an access. -/

namespace Sys2Proof.Machine.Claim

/-! ## Bytes and words (00_scope.md R9, R10) -/

theorem toNat_byteOf (n : Nat) : (byteOf n).toNat = n % 256 := by
  simp [byteOf]

theorem toNat_wordOf (n : Nat) : (wordOf n).toNat = n % 65536 := by
  simp [wordOf]

theorem byteOf_toNat (v : Byte) : byteOf v.toNat = v := by
  apply BitVec.eq_of_toNat_eq
  rw [toNat_byteOf, Nat.mod_eq_of_lt v.isLt]

theorem byteOf_eq_lo8 (v : Word) : byteOf v.toNat = lo8 v := by
  apply BitVec.eq_of_toNat_eq
  rw [toNat_byteOf, toNat_lo8]

theorem byteOf_div_eq_hi8 (v : Word) : byteOf (v.toNat / 256) = hi8 v := by
  apply BitVec.eq_of_toNat_eq
  have := v.isLt
  have cast : ((v.toNat : Int) / 256) = ((v.toNat / 256 : Nat) : Int) := rfl
  rw [cast, toNat_byteOf, toNat_hi8]
  omega

theorem wordAt_eq (s : State) (a : Word) : wordAt s a = pair (s.peek (a + 1#16)) (s.peek a) := by
  apply BitVec.eq_of_toNat_eq
  have := (s.peek a).isLt
  have := (s.peek (a + 1#16)).isLt
  have cast : ((s.peek a).toNat + 256 * (s.peek (a + 1#16)).toNat : Int) =
    (((s.peek a).toNat + 256 * (s.peek (a + 1#16)).toNat : Nat) : Int) := by push_cast; rfl
  rw [wordAt, cast, toNat_wordOf, toNat_pair]
  omega

/-- Adding a signed byte to a word, in integers and in words. -/
theorem wordOf_add_toInt (v : Word) (d : Byte) : wordOf (v.toNat + d.toInt) = v + sext16 d := by
  simp [wordOf, sext16, BitVec.signExtend, BitVec.ofInt_add]

theorem addr_eq_ea (s : State) (xy : IndexReg) (d : Byte) : addr s xy d = s.ea xy d := wordOf_add_toInt _ d

theorem relTarget_eq (s : State) (e : Byte) : relTarget s e = s.pc + sext16 e := wordOf_add_toInt _ e

theorem halfByte_eq_half (s : State) (xy : IndexReg) (half : Half) : halfByte s xy half = s.half xy half := by
  cases half
  · exact byteOf_div_eq_hi8 _
  · exact byteOf_eq_lo8 _

theorem wordOf_eight_mul (p : BitVec 3) : wordOf (8 * p.toNat) = rstTarget p := by
  revert p
  decide

/-! ## Flags and conditions (10_state.md R27, R29, R31) -/

theorem bitOf_toNat (v : Byte) (k : Nat) : bitOf v.toNat k = v.getLsbD k := (getLsbD_eq_div v k).symm

theorem evenOnes_eq_parity (v : Byte) : evenOnes v = parity v := by
  revert v
  decide

theorem parityFlags_eq_szpF (r : Byte) (h c : Bool) : parityFlags r h false c = szpF r h c := by
  simp only [parityFlags, szpF, bit7_eq, eq_zero_iff, bitOf_toNat, evenOnes_eq_parity]

theorem holds_eq_condHolds (cc : Cond) (f : Byte) : holds cc f = condHolds cc f := by
  cases cc <;> simp only [holds, condHolds, bitOf_toNat] <;> rfl

/-! ## The state after an access (20_memory.md R84 to R88) -/

theorem readXy_eq (s : State) (xy : IndexReg) (d : Byte) : readXy s xy d = (s.readAtXyD xy d).2 := by
  rw [readXy, addr_eq_ea]
  rfl

theorem push16_eq_pushed (s : State) (v : Word) : s.push16 v = pushed s v := by
  rw [State.push16_eq, pushed, byteOf_div_eq_hi8, byteOf_eq_lo8]
  rfl

theorem pop16_eq_popped (s : State) : s.pop16 = (wordAt s s.sp, popped s) := by
  rw [State.pop16_eq, wordAt_eq]
  rfl

end Sys2Proof.Machine.Claim
end

section
/-! SUPPORT. The stack, the 8-bit loads, logic on A, the accumulator's complement and carry operations, jumps, calls and returns:
each meaning is the state its rule names (20_memory.md R88; 40_load8.md; 43_alu8.md; 44_general_control.md;
48_jump_call_return.md). -/

namespace Sys2Proof.Machine

open Claim

theorem next_congr {t u : State} (h : t = u) : (Host.Outcome.next t : Result) = .next u := congrArg Host.Outcome.next h

/-! ## The stack (R88) -/

theorem peek_push16 (s : State) (v a : Word) (hw : s.mem.wf = true) :
    (s.push16 v).peek a = if a = s.sp - 2#16 then lo8 v else if a = s.sp - 1#16 then hi8 v else s.peek a := by
  rw [State.push16_eq]
  simp only [State.peek, Memory.read_write _ _ _ _ (Memory.wf_write _ _ _ hw), Memory.read_write _ _ _ _ hw]

theorem wordAt_push16 (s : State) (v : Word) (hw : s.mem.wf = true) : wordAt (s.push16 v) (s.sp - 2#16) = v := by
  have top : s.sp - 2#16 + 1#16 = s.sp - 1#16 := by bv_omega
  have apart : s.sp - 1#16 ≠ s.sp - 2#16 := by bv_omega
  rw [wordAt_eq, top, peek_push16 s v _ hw, peek_push16 s v _ hw, if_neg apart, if_pos rfl, if_pos rfl, pair_hi8_lo8]

/-- Settles O30: a push and a pop in the statement's words, then what the two stores of a push leave to read. -/
theorem pushThenPopReturnsTheWord : Obligations.PushThenPopReturnsTheWord := by
  intro s v
  have sp : (s.push16 v).sp = s.sp - 2#16 := by rw [State.push16_eq]
  refine ⟨push16_eq_pushed s v, pop16_eq_popped s, fun hw => ⟨?_, ?_, fun a h1 h2 => ?_, ?_, ?_, ?_⟩⟩
  · rw [peek_push16 s v _ hw, byteOf_div_eq_hi8, if_neg (by bv_omega), if_pos rfl]
  · rw [peek_push16 s v _ hw, byteOf_eq_lo8, if_pos rfl]
  · rw [peek_push16 s v a hw, if_neg h2, if_neg h1]
  · rw [sp, wordAt_push16 s v hw]
  · rw [pop16_eq_popped, sp, wordAt_push16 s v hw]
  · rw [State.pop16_eq, sp]
    exact BitVec.sub_add_cancel s.sp 2#16

/-! ## 8-bit loads (R200 to R203, R218 to R220) -/

/-- A write of one register is what the statement asks of a load. -/
theorem loads_setReg8 (s u : State) (r : Reg8) (v : Byte) (hu : ∀ q, u.reg8 q = s.reg8 q) :
    (u.setReg8 r v).reg8 r = v ∧ (∀ q, q ≠ r → (u.setReg8 r v).reg8 q = s.reg8 q) ∧
      { u.setReg8 r v with a := s.a, b := s.b, c := s.c, d := s.d, e := s.e, h := s.h, l := s.l } =
        { u with a := s.a, b := s.b, c := s.c, d := s.d, e := s.e, h := s.h, l := s.l } := by
  refine ⟨u.reg8_setReg8 r v, fun q hq => ?_, by cases r <;> rfl⟩
  rw [u.reg8_setReg8_of_ne r q v hq, hu]

/-- A write of one half is what the statement asks of a load into XYH or XYL. -/
theorem sets_setHalf (s : State) (xy : IndexReg) (half : Half) (v : Byte) :
    halfByte (s.setHalf xy half v) xy half = v ∧
      (∀ q k, (q ≠ xy ∨ k ≠ half) → halfByte (s.setHalf xy half v) q k = halfByte s q k) ∧
      { s.setHalf xy half v with ix := s.ix, iy := s.iy } = s := by
  simp only [halfByte_eq_half, State.half_setHalf, and_self, if_true, true_and]
  refine ⟨fun q k h => if_neg fun hk => ?_, ?_⟩
  · exact h.elim (· hk.1) (· hk.2)
  · obtain ⟨x, y, e⟩ := s.setHalf_frame xy half v
    rw [e]

/-- Settles O35: each load writes one register, or one half, of the state its operand's read leaves. -/
theorem registerLoads : Obligations.RegisterLoads := by
  intro s r r' n d xy half src
  have kept : ∀ q, s.reg8 q = s.reg8 q := fun _ => rfl
  refine ⟨⟨_, rfl, loads_setReg8 s s r _ kept⟩, ⟨_, rfl, loads_setReg8 s s r n kept⟩,
    ⟨_, rfl, loads_setReg8 s (readHl s) r _ kept⟩, ?_, ?_, ⟨_, rfl, sets_setHalf s xy half n⟩, ?_⟩
  · rw [readXy_eq, addr_eq_ea]
    exact ⟨_, rfl, loads_setReg8 s (s.readAtXyD xy d).2 r _ kept⟩
  · rw [halfByte_eq_half]
    exact ⟨_, rfl, loads_setReg8 s s r _ kept⟩
  · rw [halfByte_eq_half, halfByte_eq_half]
    have e : exec (.ldXyHalfR xy half src) s = .next (s.setHalf xy half (s.regXy xy src)) := rfl
    cases src <;> exact ⟨_, e, sets_setHalf s xy half _⟩

/-! ## Logic on A (R313 to R315) -/

theorem aluAnd_eq (s : State) (v : Byte) : s.aluAnd v = afterLogic s (s.a &&& v) true := by
  rw [afterLogic, parityFlags_eq_szpF]
  rfl

theorem aluXor_eq (s : State) (v : Byte) : s.aluXor v = afterLogic s (s.a ^^^ v) false := by
  rw [afterLogic, parityFlags_eq_szpF]
  rfl

theorem aluOr_eq (s : State) (v : Byte) : s.aluOr v = afterLogic s (s.a ||| v) false := by
  rw [afterLogic, parityFlags_eq_szpF]
  rfl

/-- Settles O45: in each form the operation on A after the operand's read. -/
theorem logicResults : Obligations.LogicResults := by
  intro s r n d xy half
  rw [readXy_eq, addr_eq_ea, halfByte_eq_half]
  exact ⟨next_congr (aluAnd_eq s _), next_congr (aluAnd_eq s n), next_congr (aluAnd_eq (readHl s) _),
    next_congr (aluAnd_eq (s.readAtXyD xy d).2 _), next_congr (aluAnd_eq s _),
    next_congr (aluXor_eq s _), next_congr (aluXor_eq s n), next_congr (aluXor_eq (readHl s) _),
    next_congr (aluXor_eq (s.readAtXyD xy d).2 _), next_congr (aluXor_eq s _),
    next_congr (aluOr_eq s _), next_congr (aluOr_eq s n), next_congr (aluOr_eq (readHl s) _),
    next_congr (aluOr_eq (s.readAtXyD xy d).2 _), next_congr (aluOr_eq s _)⟩

/-! ## Complement, negation and the carry flag (R381 to R384) -/

theorem xor_ones_eq_byteOf (a : Byte) : a ^^^ 0xFF#8 = byteOf (255 - a.toNat) := by
  revert a
  decide

theorem setAF8_cpl8 (s : State) :
    s.setAF8 (cpl8 s.a s.f) = { s with
      a := byteOf (255 - s.a.toNat)
      f := mkF (flagS s.f) (flagZ s.f) (!bitOf s.a.toNat 5) true (!bitOf s.a.toNat 3) (flagPV s.f) true (flagC s.f)
      qCur := true } := by
  have bit5 : (s.a ^^^ 0xFF#8).getLsbD 5 = !bitOf s.a.toNat 5 := by simp [bitOf_toNat]
  have bit3 : (s.a ^^^ 0xFF#8).getLsbD 3 = !bitOf s.a.toNat 3 := by simp [bitOf_toNat]
  rw [State.setAF8, cpl8, bit5, bit3, xor_ones_eq_byteOf]

theorem byteOf_sub (a b : Byte) (c : Bool) : byteOf ((a.toNat : Int) - b.toNat - c.toNat) = a - b - carryIn c := by
  apply BitVec.eq_of_toNat_eq
  have := a.isLt
  have := b.isLt
  have := Bool.toNat_le c
  rw [toNat_sub_carry8, byteOf, BitVec.toNat_ofInt]
  omega

/-- The difference and its flags in integer arithmetic (43_alu8.md R311). -/
theorem setAF8_sub8 (s : State) (v : Byte) (c : Bool) : s.setAF8 (sub8 s.a v c) = afterSub s v c := by
  simp only [State.setAF8, sub8, afterSub, byteOf_sub, half_sub8, overflow_sub8, overflows8, Bool.decide_or]
  simp only [bit7_eq, eq_zero_iff, bitOf_toNat]

/-- Y and X of SCF and CCF come from A where the instruction before wrote the flags, else from A or F (90_conflicts.md C3). -/
theorem scfCcfBits_eq (a f : Byte) (q : Bool) : scfCcfBits a f q = if q then a else a ||| f := by
  cases q
  · simp [scfCcfBits, BitVec.or_comm]
  · simp [scfCcfBits]

/-- Settles O49: CPL and NEG by their results in integer arithmetic, SCF and CCF by where Y and X come from. -/
theorem complementNegateAndCarryFlags : Obligations.ComplementNegateAndCarryFlags := by
  intro s dup
  have mix : ∀ k, bitOf (if s.qLast then s.a.toNat else (s.a ||| s.f).toNat) k = (scfCcfBits s.a s.f s.qLast).getLsbD k := by
    intro k
    rw [scfCcfBits_eq, ← bitOf_toNat]
    split <;> rfl
  dsimp only
  simp only [mix]
  exact ⟨next_congr (setAF8_cpl8 s), next_congr (setAF8_sub8 { s with a := 0#8 } s.a false), rfl, rfl⟩

/-! ## Jumps, calls and returns (R500 to R513) -/

/-- Settles O58: a condition, or B at 1, decides between the two states a conditional jump can leave. -/
theorem jumpResults : Obligations.JumpResults := by
  intro s cc nn e xy
  rw [relTarget_eq, holds_eq_condHolds]
  refine ⟨rfl, ?_, rfl, fun h => ?_, fun h => ?_, rfl, rfl, fun h => ?_, fun h => ?_⟩
  · refine next_congr ?_
    cases condHolds cc s.f <;> rfl
  · exact next_congr (if_pos h)
  · exact next_congr (if_neg (by simp [h]))
  · have hb : s.b - 1#8 = 0#8 := by bv_omega
    exact next_congr ((if_pos hb).trans (by rw [hb]))
  · have hb : s.b - 1#8 ≠ 0#8 := by bv_omega
    have hd : byteOf ((s.b.toNat : Int) - 1) = s.b - 1#8 := by simpa [carryIn] using byteOf_sub s.b 1#8 false
    rw [hd]
    exact next_congr (if_neg hb)

/-- Settles O59: the push and the pop are those of the stack's own rule, and a condition decides whether they are made. -/
theorem callAndReturnResults : Obligations.CallAndReturnResults := by
  intro s cc nn p
  rw [holds_eq_condHolds, wordOf_eight_mul, ← push16_eq_pushed]
  have ret : s.return = { popped s with pc := wordAt s s.sp, memptr := wordAt s s.sp } := by
    rw [State.return, pop16_eq_popped]
  refine ⟨rfl, fun h => ?_, fun h => ?_, next_congr ret, fun h => ?_, fun h => ?_, rfl⟩
  · exact next_congr (if_pos h)
  · exact next_congr (if_neg (by simp [h]))
  · exact next_congr ((if_pos h).trans ret)
  · exact next_congr (if_neg (by simp [h]))

end Sys2Proof.Machine
end

section
/-! SUPPORT. The host's side: resets (10_state.md R44 to R46), snapshots (R47), and the moves of 60_exceptions.md R635. -/

namespace Sys2Proof.Machine

open Claim

/-! ## Resets -/

theorem resetOp_of_pin {s : State} (h : s.pinResetReq = true) : s.resetOp = (s.emit .busReset).softReset := if_pos h

theorem resetOp_of_no_pin {s : State} (h : s.pinResetReq = false) : s.resetOp = (s.emit .busReset).fullReset :=
  if_neg (by simp [h])

/-- A reset is one of the two kinds, after its event. -/
theorem resetOp_cases (s : State) :
    s.resetOp = (s.emit .busReset).softReset ∨ s.resetOp = (s.emit .busReset).fullReset := by
  cases h : s.pinResetReq
  · exact .inr (resetOp_of_no_pin h)
  · exact .inl (resetOp_of_pin h)

/-- Settles O1: the listed values are those of the definition. -/
theorem fullResetValues : Obligations.FullResetValues := fun _ => rfl

/-- Settles O2: the listed values are those of the definition. -/
theorem softResetValues : Obligations.SoftResetValues := fun _ => rfl

/-- Settles O3: both kinds write the same control values. -/
theorem resetOperationAndConstruction : Obligations.ResetOperationAndConstruction := by
  refine ⟨fun s => ⟨resetOp_of_pin, resetOp_of_no_pin, ?_⟩, rfl, rfl⟩
  obtain e | e := resetOp_cases s <;> rw [e] <;> exact ⟨rfl, rfl, rfl, rfl, rfl, rfl, rfl, rfl, rfl, rfl, rfl, rfl, rfl, rfl⟩

/-- Settles O20: a reset clears the latches, the delay and the pending opcode state, and leaves memory, `bp` and `qCur`. -/
theorem resetMeetsTheInvariant : Obligations.ResetMeetsTheInvariant := by
  refine ⟨⟨rfl, rfl, rfl, fun _ => rfl, Bool.noConfusion, Bool.noConfusion⟩, fun s h => ?_⟩
  obtain e | e := resetOp_cases s <;> rw [e] <;>
    exact ⟨h.memWf, h.bpRising, h.qCurFalse, fun _ => rfl, Bool.noConfusion, Bool.noConfusion⟩

/-! ## Snapshots -/

/-- A snapshot brings a state back into any state that agrees on what it leaves out. -/
theorem importSnapshot_exportSnapshot {s u : State} (hbp : u.bp = s.bp) (htrace : u.traceEnabled = s.traceEnabled)
    (hmem : u.mem = s.mem) (hhook : u.bpHook = s.bpHook) (hhist : u.history = s.history)
    (hport : u.portInputs = s.portInputs) (hack : u.ackInputs = s.ackInputs) (hparams : u.params = s.params)
    (hpd : u.portDraws = s.portDraws) (had : u.ackDraws = s.ackDraws) (hq : u.qCur = s.qCur) :
    u.importSnapshot s.exportSnapshot = s := by
  simp only [State.importSnapshot, State.exportSnapshot, hbp, htrace, hmem, hhook, hhist, hport, hack, hparams, hpd, had, hq]

/-- Settles O27: the import gives the state itself, so its runs are the same. -/
theorem snapshotRoundTrip : Obligations.SnapshotRoundTrip := by
  refine ⟨fun s u h1 h2 h3 h4 h5 h6 h7 h8 h9 h10 h11 k => ?_, fun s n => rfl⟩
  rw [importSnapshot_exportSnapshot h1 h2 h3 h4 h5 h6 h7 h8 h9 h10 h11]

/-! ## Registers and flags by name -/

theorem byteOf_natCast (n : Nat) : byteOf n = BitVec.ofNat 8 n := by
  simp [byteOf]

theorem wordOf_natCast (n : Nat) : wordOf n = BitVec.ofNat 16 n := by
  simp [wordOf]

/-- The two parts of R are its bit 7 and its low seven bits (10_state.md R26). -/
theorem r_of_parts (v : Byte) : BitVec.ofBool (v.getLsbD 7) ++ v.extractLsb' 0 7 = v := by
  revert v
  decide

theorem toNat_r (s : State) : s.r.toNat = 128 * s.rhi.toNat + s.r7.toNat := by
  have := s.r7.isLt
  rw [State.r, BitVec.toNat_append, ← Nat.shiftLeft_add_eq_or_of_lt this, Nat.shiftLeft_eq]
  cases s.rhi <;> rfl

theorem toNat_pair_comm (h l : Byte) : (pair h l).toNat = 256 * h.toNat + l.toNat := by
  rw [toNat_pair, Nat.mul_comm]

/-- An accessor answers the number its register holds. -/
theorem readReg_eq_regValue (s : State) (name : RegName) : s.readReg name = regValue s name := by
  cases name
  case r => exact toNat_r s
  case ixh | iyh => exact toNat_hi8 _
  case ixl | iyl => exact toNat_lo8 _
  case af | bc | de | hl | altAF | altBC | altDE | altHL => exact toNat_pair_comm _ _
  all_goals rfl

theorem hi8_ofNat (n : Nat) : hi8 (BitVec.ofNat 16 n) = byteOf (n / 256) := by
  apply BitVec.eq_of_toNat_eq
  have cast : ((n : Int) / 256) = ((n / 256 : Nat) : Int) := rfl
  rw [cast, toNat_byteOf, toNat_hi8, BitVec.toNat_ofNat]
  omega

theorem lo8_ofNat (n : Nat) : lo8 (BitVec.ofNat 16 n) = byteOf n := by
  apply BitVec.eq_of_toNat_eq
  rw [toNat_byteOf, toNat_lo8, BitVec.toNat_ofNat]
  omega

theorem pair_ofNat_lo8 (n : Nat) (w : Word) : pair (BitVec.ofNat 8 n) (lo8 w) = wordOf (n * 256 + w.toNat % 256) := by
  apply BitVec.eq_of_toNat_eq
  have cast : ((n : Int) * 256 + w.toNat % 256) = ((n * 256 + w.toNat % 256 : Nat) : Int) := by push_cast; rfl
  rw [cast, toNat_wordOf, toNat_pair, toNat_lo8, BitVec.toNat_ofNat]
  omega

theorem pair_hi8_ofNat (n : Nat) (w : Word) : pair (hi8 w) (BitVec.ofNat 8 n) = wordOf (w.toNat / 256 * 256 + n % 256) := by
  apply BitVec.eq_of_toNat_eq
  have := w.isLt
  have cast : ((w.toNat : Int) / 256 * 256 + n % 256) = ((w.toNat / 256 * 256 + n % 256 : Nat) : Int) := by push_cast; rfl
  rw [cast, toNat_wordOf, toNat_pair, toNat_hi8, BitVec.toNat_ofNat]
  omega

theorem extractLsb'_ofNat_seven (n : Nat) : (BitVec.ofNat 8 n).extractLsb' 0 7 = BitVec.ofNat 7 (n % 128) := by
  apply BitVec.eq_of_toNat_eq
  simp only [BitVec.extractLsb'_toNat, BitVec.toNat_ofNat, Nat.shiftRight_zero]
  omega

theorem bitOf_seven (n : Nat) : bitOf n 7 = (BitVec.ofNat 8 n).getLsbD 7 := by
  rw [getLsbD_eq_div, bitOf, BitVec.toNat_ofNat]
  congr 1
  exact propext (by omega)

/-- A host write changes the named register's fields alone. -/
theorem writeReg_eq_regWritten (s : State) (name : RegName) (v : Nat) : s.writeReg name v = regWritten s name v := by
  cases name
  case r => rw [regWritten, bitOf_seven, ← extractLsb'_ofNat_seven]; rfl
  case ixh => rw [regWritten, ← pair_ofNat_lo8]; rfl
  case iyh => rw [regWritten, ← pair_ofNat_lo8]; rfl
  case ixl => rw [regWritten, ← pair_hi8_ofNat]; rfl
  case iyl => rw [regWritten, ← pair_hi8_ofNat]; rfl
  case af | bc | de | hl | altAF | altBC | altDE | altHL => rw [regWritten, ← hi8_ofNat, ← lo8_ofNat]; rfl
  case ix | iy | sp | pc | memptr => rw [regWritten, wordOf_natCast]; rfl
  all_goals rw [regWritten, byteOf_natCast]; rfl

/-- A host write reads back reduced to the register's width. -/
theorem readReg_writeReg (s : State) (name : RegName) (v : Nat) :
    (s.writeReg name v).readReg name = v % (if isByteReg name then 256 else 65536) := by
  have byte : (BitVec.ofNat 8 v).toNat = v % 256 := BitVec.toNat_ofNat v 8
  have word : (BitVec.ofNat 16 v).toNat = v % 65536 := BitVec.toNat_ofNat v 16
  cases name
  case r => exact (congrArg BitVec.toNat (r_of_parts _)).trans byte
  case ixh | iyh => exact (congrArg BitVec.toNat (hi8_pair _ _)).trans byte
  case ixl | iyl => exact (congrArg BitVec.toNat (lo8_pair _ _)).trans byte
  case af | bc | de | hl | altAF | altBC | altDE | altHL => exact (congrArg BitVec.toNat (pair_hi8_lo8 _)).trans word
  case ix | iy | sp | pc | memptr => exact word
  all_goals exact byte

theorem readFlag_eq_flagOf (s : State) (fl : FlagName) : s.readFlag fl = flagOf s.f fl := by
  cases fl <;> exact (bitOf_toNat s.f _).symm

/-! ## The moves -/

theorem contains_filter_ne (l : List Word) (x y : Word) :
    (l.filter (fun z => z != x)).contains y = (decide (y ≠ x) && l.contains y) := by
  rw [Bool.eq_iff_iff]
  simp [and_comm]

/-- Settles O28, clause by clause. -/
theorem hostMovesDoOneThing : Obligations.HostMovesDoOneThing := by
  refine ⟨fun s => ⟨rfl, rfl, rfl, rfl, rfl⟩, fun s v m p table => ⟨rfl, rfl, rfl, rfl, rfl, rfl, rfl, rfl, rfl, rfl⟩,
    fun s name v => ⟨readReg_eq_regValue s name, writeReg_eq_regWritten s name v, readReg_writeReg s name v⟩,
    fun s fl v => ⟨rfl, readFlag_eq_flagOf s fl, fun g => s.readFlag_writeFlag fl g v⟩,
    fun s x y => ⟨contains_insertAddr s.bp x y, contains_filter_ne s.bp x y, List.contains_iff_mem, rfl, rfl⟩,
    fun s x h => ⟨rising_insertAddr s.bp x h, rising_filter s.bp _ h⟩,
    fun s x v => ⟨rfl, fun hw => ⟨s.mem.wf_write x v hw, fun y => s.mem.read_write x y v hw⟩⟩,
    fun s v => ⟨rfl, fun h p => ?_, rfl, fun h => ?_⟩,
    fun s n => ⟨rfl, fun t ht => ?_⟩⟩
  · rw [State.portRead_eq]
    simp [HostAction.apply, h]
  · rw [State.drawAck_eq]
    simp [HostAction.apply, h]
  · rw [ht]
    exact ⟨rfl, rfl, rfl, rfl, rfl, rfl, rfl, rfl, rfl, rfl, rfl⟩

end Sys2Proof.Machine
end

section
/-! SUPPORT. Memory as RAM and the two orders of a word's bytes (20_memory.md R80, R84, R85), and an NMI handler that is one RETN
(60_exceptions.md R611, R616). -/

namespace Sys2Proof.Machine

open Claim

/-! ## Two memories that read the same (log entry 3) -/

theorem Memory.wfFrom_cons {lo k : Nat} {v : Byte} {rest : Memory} :
    Memory.wfFrom lo ((k, v) :: rest) = true ↔
      lo ≤ k ∧ k < 0x10000 ∧ v ≠ Config.unwrittenByte ∧ Memory.wfFrom (k + 1) rest = true := by
  simp only [Memory.wfFrom, Bool.and_eq_true, decide_eq_true_eq, bne_iff_ne, ne_eq, and_assoc]

theorem Memory.readCell_cons_self (k : Nat) (v : Byte) (rest : Memory) : Memory.readCell ((k, v) :: rest) k = v :=
  if_pos rfl

theorem Memory.readCell_cons_of_ne {k n : Nat} (v : Byte) (rest : Memory) (h : n ≠ k) :
    Memory.readCell ((k, v) :: rest) n = rest.readCell n := if_neg h.symm

/-- An address that does not read as unwritten is not below the listed ones. -/
theorem Memory.le_of_readCell_ne {m : Memory} {lo n : Nat} (hw : m.wfFrom lo = true)
    (h : m.readCell n ≠ Config.unwrittenByte) : lo ≤ n :=
  Nat.le_of_not_lt fun hlt => h (m.readCell_below n lo hw hlt)

/-- The canonical form lists exactly the addresses that do not read as unwritten, in order, so the reads determine the list. -/
theorem Memory.eq_of_readCell_eq (m n : Memory) (lo : Nat) (hm : m.wfFrom lo = true) (hn : n.wfFrom lo = true)
    (h : ∀ k < 0x10000, m.readCell k = n.readCell k) : m = n := by
  induction m generalizing n lo with
  | nil =>
    cases n with
    | nil => rfl
    | cons y ys =>
      obtain ⟨k, w⟩ := y
      obtain ⟨_, hk, hw, _⟩ := wfFrom_cons.mp hn
      exact absurd ((h k hk).trans (readCell_cons_self k w ys)).symm hw
  | cons x xs ih =>
    obtain ⟨j, v⟩ := x
    obtain ⟨_, hj, hv, hxs⟩ := wfFrom_cons.mp hm
    cases n with
    | nil => exact absurd ((readCell_cons_self j v xs).symm.trans (h j hj)) hv
    | cons y ys =>
      obtain ⟨k, w⟩ := y
      obtain ⟨_, hk, hw, hys⟩ := wfFrom_cons.mp hn
      have atJ := (readCell_cons_self j v xs).symm.trans (h j hj)
      have atK := (h k hk).trans (readCell_cons_self k w ys)
      have hkj : k ≤ j := le_of_readCell_ne (wfFrom_cons.mpr ⟨le_rfl, hk, hw, hys⟩) (atJ ▸ hv)
      have hjk : j ≤ k := le_of_readCell_ne (wfFrom_cons.mpr ⟨le_rfl, hj, hv, hxs⟩) (atK ▸ hw)
      obtain rfl : j = k := le_antisymm hjk hkj
      obtain rfl : v = w := atJ.trans (readCell_cons_self j w ys)
      have tails : ∀ i < 0x10000, Memory.readCell xs i = Memory.readCell ys i := by
        intro i hi
        by_cases hij : i = j
        · rw [readCell_below xs i (j + 1) hxs (by omega), readCell_below ys i (j + 1) hys (by omega)]
        · rw [← readCell_cons_of_ne v xs hij, ← readCell_cons_of_ne v ys hij, h i hi]
      rw [ih ys (j + 1) hxs hys tails]

theorem Memory.eq_of_read_eq {m n : Memory} (hm : m.wf = true) (hn : n.wf = true)
    (h : ∀ a : Word, m.read a = n.read a) : m = n := by
  refine Memory.eq_of_readCell_eq m n 0 hm hn fun k hk => ?_
  have hk' : (BitVec.ofNat 16 k).toNat = k := by rw [BitVec.toNat_ofNat]; omega
  simpa only [Memory.read, hk'] using h (BitVec.ofNat 16 k)

/-! ## Words (R85) -/

theorem memWrite16_eq_stored (s : State) (a v : Word) :
    s.memWrite16 a v = stored (stored s a (byteOf v.toNat)) (a + 1#16) (byteOf (v.toNat / 256)) := by
  rw [byteOf_eq_lo8, byteOf_div_eq_hi8]
  rfl

theorem memRead16_eq_loaded (s : State) (a : Word) : s.memRead16 a = (wordAt s a, loaded (loaded s a) (a + 1#16)) := by
  rw [wordAt_eq]
  rfl

theorem wordAt_memWrite16 (s : State) (a v : Word) (hw : s.mem.wf = true) : wordAt (s.memWrite16 a v) a = v := by
  have apart : a ≠ a + 1#16 := by bv_omega
  rw [wordAt_eq, State.memWrite16_eq]
  simp only [State.peek, Memory.read_write _ _ _ _ (Memory.wf_write _ _ _ hw), Memory.read_write _ _ _ _ hw, if_true,
    if_neg apart, pair_hi8_lo8]

/-- Settles O29: the laws of one write, the reads that determine a canonical list, and a word as its two bytes. -/
theorem memoryIsRamAndWordsAreLittleEndian : Obligations.MemoryIsRamAndWordsAreLittleEndian := by
  refine ⟨fun m a v hw => ⟨m.wf_write a v hw, ?_, fun b hb => m.read_write_of_ne a b v hb⟩,
    fun m n hm hn h => Memory.eq_of_read_eq hm hn h, fun s a v => ⟨rfl, rfl⟩,
    fun s a v => ⟨memWrite16_eq_stored s a v, memRead16_eq_loaded s a, fun hw => ?_⟩⟩
  · rw [m.read_write a a v hw, if_pos rfl]
  · rw [memRead16_eq_loaded]
    exact wordAt_memWrite16 s a v hw

/-! ## An NMI and its RETN (60_exceptions.md R609, R611, R616) -/

/-- An NMI acceptance is the push of the return address, then control at the handler. -/
theorem acceptNMI_eq (s : State) :
    s.acceptNMI = { entered { s with history := .fetch s.pc (s.peek s.pc) :: s.history } s.iff2 with
      pc := Config.nmiVector, memptr := Config.nmiVector } := by
  unfold State.acceptNMI State.vectorTo entered
  dsimp only
  rw [State.enterInterrupt_eq, ← push16_eq_pushed, State.push16_eq]
  rfl

theorem wordAt_congr {s t : State} (a : Word) (h : t.mem = s.mem) : wordAt t a = wordAt s a := by
  simp only [wordAt, State.peek, h]

theorem acceptNMI_sp (s : State) : s.acceptNMI.sp = s.sp - 2#16 := by
  rw [acceptNMI_eq]
  rfl

/-- The word at the SP that an acceptance leaves is the return address it pushed. -/
theorem wordAt_acceptNMI (s : State) (hw : s.mem.wf = true) : wordAt s.acceptNMI s.acceptNMI.sp = returnAddress s := by
  have mem : s.acceptNMI.mem = (s.push16 (returnAddress s)).mem := by rw [acceptNMI_eq, push16_eq_pushed]; rfl
  rw [acceptNMI_sp, wordAt_congr _ mem, wordAt_push16 s _ hw]

/-- What a pending NMI's acceptance leaves to return to: two bytes on the stack, the return address. -/
theorem sampleInterrupts_nmi {s : State} (hw : s.mem.wf = true) (hn : s.nmiPending = true) :
    ∃ u, s.sampleInterrupts = .next u ∧ s.Accepts s.iff2 u ∧ u.sp = s.sp - 2#16 ∧ wordAt u u.sp = returnAddress s := by
  refine ⟨_, s.sampleInterrupts_of_nmi hn, s.accepts_acceptNMI, acceptNMI_sp _, ?_⟩
  exact wordAt_acceptNMI { s with nmiPending := false } hw

/-- Settles O18: RETN reads, from the SP that the acceptance left, the word that the acceptance pushed there. -/
theorem nmiThenRetnRestores : Obligations.NmiThenRetnRestores := by
  intro s hw hn
  obtain ⟨u, sampled, accepted, sp, word⟩ := sampleInterrupts_nmi hw hn
  have spBack : u.sp + 2#16 = s.sp := by
    rw [sp]
    exact BitVec.sub_add_cancel s.sp 2#16
  have kept {α : Type} (field : State → α) := congrArg field accepted.frame
  refine ⟨u, u.returnFromInterrupt, sampled, rfl, ?_⟩
  simp only [State.returnFromInterrupt_eq, ← wordAt_eq]
  exact ⟨word, spBack, kept State.iff2, kept State.iff2, kept State.im, kept State.halted, kept State.af, kept State.bc,
    kept State.de, kept State.hl, kept State.ix, kept State.iy, kept State.i⟩

end Sys2Proof.Machine
end

section
/-! SUPPORT. Where an instruction stores (20_memory.md R84, R85, R88, R90): every byte outside `stores` is kept. -/

namespace Sys2Proof.Machine

open Claim

/-! ## Memories that differ in some addresses only -/

/-- Outside the addresses `as`, memory `n` reads as `m` does. -/
def Memory.SameOff (as : List Word) (m n : Memory) : Prop := ∀ a : Word, a ∉ as → n.read a = m.read a

namespace Memory.SameOff

theorem refl {as : List Word} {m : Memory} : Memory.SameOff as m m := fun _ _ => rfl

theorem write {as : List Word} {m n : Memory} {a : Word} {v : Byte} (k : Memory.SameOff as m n)
    (h : a ∈ as) : Memory.SameOff as m (n.write a v) :=
  fun b hb => (n.read_write_of_ne a b v fun e => hb (e ▸ h)).trans (k b hb)

theorem write_one {m : Memory} {a : Word} {v : Byte} : Memory.SameOff [a] m (m.write a v) :=
  .write .refl (.head _)

theorem write_two {m : Memory} {a b : Word} {v w : Byte} :
    Memory.SameOff [a, b] m ((m.write a v).write b w) :=
  .write (.write .refl (.head _)) (.tail _ (.head _))

/-! ## The operations: those that leave memory alone, then those that store -/

section
variable {as : List Word} {m : Memory} {t : State}

theorem setReg8 {r : Reg8} {v : Byte} (k : Memory.SameOff as m t.mem) :
    Memory.SameOff as m (t.setReg8 r v).mem := by
  rwa [State.setReg8_mem]

theorem setRp {p : Rp} {v : Word} (k : Memory.SameOff as m t.mem) : Memory.SameOff as m (t.setRp p v).mem := by
  cases p <;> exact k

theorem setRp2 {p : Rp2} {v : Word} (k : Memory.SameOff as m t.mem) :
    Memory.SameOff as m (t.setRp2 p v).mem := by
  cases p <;> exact k

theorem setIndex {xy : IndexReg} {v : Word} (k : Memory.SameOff as m t.mem) :
    Memory.SameOff as m (t.setIndex xy v).mem := by
  rwa [State.setIndex_mem]

theorem setHalf {xy : IndexReg} {half : Half} {v : Byte} (k : Memory.SameOff as m t.mem) :
    Memory.SameOff as m (t.setHalf xy half v).mem := by
  cases half <;> exact k.setIndex

theorem portRead {p : Word} (k : Memory.SameOff as m t.mem) :
    Memory.SameOff as m (t.portRead p).2.mem := by
  rwa [State.portRead_mem]

theorem blockCompare {decrement : Bool} (k : Memory.SameOff as m t.mem) :
    Memory.SameOff as m (t.blockCompare decrement).2.mem := k

theorem repeatUnless {done : Bool} (k : Memory.SameOff as m t.mem) :
    Memory.SameOff as m (t.repeatUnless done).mem := by
  rwa [State.repeatUnless_mem]

theorem ite {p : Prop} [Decidable p] {u : State} (k : Memory.SameOff as m t.mem)
    (k' : Memory.SameOff as m u.mem) : Memory.SameOff as m (if p then t else u).mem := by
  split
  · exact k
  · exact k'

end

end Memory.SameOff

theorem State.sameOff_push16 (s : State) (v : Word) :
    Memory.SameOff [s.sp - 1#16, s.sp - 2#16] s.mem (s.push16 v).mem := by
  rw [State.push16_eq]
  exact .write_two

theorem State.sameOff_exchangeAtSp (s : State) (v : Word) :
    Memory.SameOff [s.sp, s.sp + 1#16] s.mem (s.exchangeAtSp v).2.mem :=
  .write (.write .refl (.tail _ (.head _))) (.head _)

theorem State.sameOff_blockIn (s : State) (decrement : Bool) :
    Memory.SameOff [s.hl] s.mem (s.blockIn decrement).mem := by
  unfold State.blockIn
  rw [State.portRead_eq]
  exact .write_one

/-! ## Every instruction of the five tables -/

/-- An instruction completes and stores nowhere but where `storesDirect` says. -/
theorem exec_sameOff_of_isSimple (i : Instr) (s : State) (hs : isSimple i = true) :
    ∃ t, exec i s = .next t ∧ Memory.SameOff (storesDirect i s) s.mem t.mem := by
  cases i
  -- the two rows that run another entry
  case fallbackXy | prefixCbAfterXy => cases hs
  -- one byte stored
  case ldAtBcA | ldAtDeA | ldAtNnA | ldAtHlR | ldAtHlN | ldAtXyDR | ldAtXyDN | incAtHl | decAtHl | incAtXyD | decAtXyD
      | rlcAtHl | rrcAtHl | rlAtHl | rrAtHl | slaAtHl | sraAtHl | sllAtHl | srlAtHl | rlcAtXyD | rrcAtXyD | rlAtXyD | rrAtXyD
      | slaAtXyD | sraAtXyD | sllAtXyD | srlAtXyD | resAtHl | setAtHl | resAtXyD | setAtXyD | rld | rrd | ldi | ldd =>
    exact ⟨_, rfl, .write_one⟩
  -- one byte stored, then copied to a register
  case rlcAtXyDR | rrcAtXyDR | rlAtXyDR | rrAtXyDR | slaAtXyDR | sraAtXyDR | sllAtXyDR | srlAtXyDR | resAtXyDR
      | setAtXyDR => exact ⟨_, rfl, .setReg8 .write_one⟩
  -- a word stored, pushed, or exchanged with the stack
  case ldAtNnHl | ldAtNnRp | ldAtNnXy => exact ⟨_, rfl, .write_two⟩
  case pushRp2 | pushXy | rst => exact ⟨_, rfl, s.sameOff_push16 _⟩
  case callNn nn => exact ⟨_, rfl, State.sameOff_push16 { s with memptr := nn } s.pc⟩
  case callCcNn cc nn =>
    refine ⟨_, rfl, ?_⟩
    have slots : storesDirect (.callCcNn cc nn) s = if condHolds cc s.f then [s.sp - 1#16, s.sp - 2#16] else [] := by
      rw [← holds_eq_condHolds]
      rfl
    rw [slots]
    cases condHolds cc s.f
    · exact .refl
    · exact State.sameOff_push16 { s with memptr := nn } s.pc
  case exAtSpHl => exact ⟨_, rfl, s.sameOff_exchangeAtSp _⟩
  case exAtSpXy => exact ⟨_, rfl, .setIndex (s.sameOff_exchangeAtSp _)⟩
  -- the block forms with a port read or a repeat
  case ini | ind => exact ⟨_, rfl, s.sameOff_blockIn _⟩
  case inir | indr => exact ⟨_, rfl, .repeatUnless (s.sameOff_blockIn _)⟩
  case ldir | lddr => exact ⟨_, rfl, .repeatUnless .write_one⟩
  case cpi | cpd => exact ⟨_, rfl, .blockCompare .refl⟩
  case cpir | cpdr => exact ⟨_, rfl, .repeatUnless (.blockCompare .refl)⟩
  case otir | otdr => exact ⟨_, rfl, .repeatUnless .refl⟩
  -- no store, a destination that an operand names
  case ldRR | ldRN | ldRAtHl | ldRAtXyD | ldRXyHalf | resR | setR | incR | decR | rlcR | rrcR | rlR | rrR | slaR | sraR
      | sllR | srlR => exact ⟨_, rfl, .setReg8 .refl⟩
  case ldRpNn | incRp | decRp | ldRpAtNn => exact ⟨_, rfl, .setRp .refl⟩
  case popRp2 => exact ⟨_, rfl, .setRp2 .refl⟩
  case ldXyNn | ldXyAtNn | incXy | decXy | addXyRp | popXy => exact ⟨_, rfl, .setIndex .refl⟩
  case incXyHalf | decXyHalf | ldXyHalfR | ldXyHalfN => exact ⟨_, rfl, .setHalf .refl⟩
  -- no store, a condition or B tested, or a port read
  case jrCc | jpCcNn | retCc | djnz => exact ⟨_, rfl, .ite .refl .refl⟩
  case inAAtN | inC => exact ⟨_, rfl, .portRead .refl⟩
  case inRC => exact ⟨_, rfl, .setReg8 (.portRead .refl)⟩
  -- no store
  all_goals exact ⟨_, rfl, .refl⟩

/-! ## The two rows that run another entry -/

/-- Where an entry stores does not depend on PC or on the history. -/
theorem storesDirect_fetched (i : Instr) (s : State) (pc : Word) (h : List Event) :
    storesDirect i { s with pc := pc, history := h } = storesDirect i s := by
  cases i
  all_goals rfl

/-- Operand reads before an entry move no store of it. -/
theorem exec_fetchOperands_sameOff (i : Instr) (s : State) (h : List Event) (n : Nat) (hs : isSimple i = true) :
    ∃ t, exec i (State.fetchOperands { s with history := h } n) = .next t ∧
      Memory.SameOff (storesDirect i s) s.mem t.mem := by
  obtain ⟨pc, h', e⟩ := State.fetchOperands_frame { s with history := h } n
  rw [e, ← storesDirect_fetched i s pc (h' ++ h)]
  exact exec_sameOff_of_isSimple i _ hs

theorem exec_sameOff (i : Instr) (s : State) :
    ∃ t, exec i s = .next t ∧ Memory.SameOff (stores i s) s.mem t.mem := by
  cases i
  case fallbackXy xy op =>
    obtain ⟨h, e⟩ := s.consultBp_frame (s.pc - 1#16) op
    rw [exec_fallbackXy, e]
    exact exec_fetchOperands_sameOff _ s _ _ (isSimple_decodeMain ..)
  case prefixCbAfterXy xy =>
    rw [exec_prefixCbAfterXy]
    exact exec_fetchOperands_sameOff _ s s.history 2 (isSimple_decodeIndexCB ..)
  all_goals exact exec_sameOff_of_isSimple _ s rfl

/-- Settles O25: the instruction's stores, whichever row it runs, are the listed ones. -/
theorem onlyStoringFormsChangeMemory : Obligations.OnlyStoringFormsChangeMemory := by
  intro i s t h a ha
  obtain ⟨u, e, k⟩ := exec_sameOff i s
  rw [e] at h
  cases h
  exact k a ha

end Sys2Proof.Machine
end

section
/-! SUPPORT. Input and output (20_memory.md R89; 49_io.md R530 to R535). -/

namespace Sys2Proof.Machine

open Claim

theorem wordOf_mul_add (h l : Byte) : wordOf (h.toNat * 256 + l.toNat) = pair h l := by
  apply BitVec.eq_of_toNat_eq
  have := (pair h l).isLt
  have cast : ((h.toNat : Int) * 256 + l.toNat) = ((h.toNat * 256 + l.toNat : Nat) : Int) := by push_cast; rfl
  rw [cast, toNat_wordOf, ← toNat_pair, Nat.mod_eq_of_lt this]

/-- The MEMPTR of an output to port A:n is A and n + 1 with no carry between them (R533). -/
theorem wordOf_mul_add_succ_mod (h l : Byte) : wordOf (h.toNat * 256 + (l.toNat + 1) % 256) = pair h (l + 1#8) := by
  have succ : (((l + 1#8).toNat : Nat) : Int) = ((l.toNat : Int) + 1) % 256 := by
    rw [BitVec.toNat_add]
    rfl
  rw [← wordOf_mul_add, succ]

theorem portRead_eq_afterInput (s : State) (p : Word) : s.portRead p = (inputByte s p, afterInput s p) :=
  State.portRead_eq s p

/-- The input of R531: the environment's byte and its flags. -/
theorem inFromC_eq (s : State) :
    s.inFromC = (inputByte s s.bc, { afterInput s s.bc with
      memptr := s.bc + 1#16, f := parityFlags (inputByte s s.bc) false false (flagC s.f), qCur := true }) := by
  rw [State.inFromC, portRead_eq_afterInput, parityFlags_eq_szpF]
  rfl

theorem exec_inAAtN (n : Byte) (s : State) :
    exec (.inAAtN n) s = .next { afterInput s (pair s.a n) with
      a := inputByte s (pair s.a n), memptr := pair s.a n + 1#16 } := by
  have unfolded : exec (.inAAtN n) s = execInAAtN n s := rfl
  rw [unfolded, execInAAtN, portRead_eq_afterInput]

/-- Settles O60: the input byte is the environment's in all three inputs, and an output is an event and a new MEMPTR. -/
theorem inputAndOutputResults : Obligations.InputAndOutputResults := by
  intro s r n
  rw [wordOf_mul_add, wordOf_mul_add_succ_mod]
  refine ⟨exec_inAAtN n s, ⟨s.inFromC.2.setReg8 r s.inFromC.1, rfl, ?_⟩, ?_, rfl, rfl, rfl⟩
  · rw [inFromC_eq]
    exact loads_setReg8 s _ r _ fun q => by cases q <;> rfl
  · exact next_congr (congrArg Prod.snd (inFromC_eq s))

end Sys2Proof.Machine
end

section
/-! SUPPORT. The decoder and the encoder (30_encoding.md R110, R150 to R156). An entry of a table depends on its operand bytes
only through the operands it shows, so what the encoder gives for each of the 256 opcode bytes is settled with operand bytes 0. -/

namespace Sys2Proof

open Machine

/-! ## Rows: an entry and the same entry with other operand bytes -/

/-- `i` is the row of `j` with the operand bytes `o1` and `o2`, after the `k` bytes that spell the row. -/
structure SameRow (k : Nat) (o1 o2 : Byte) (j i : Instr) : Prop where
  wf : i.wf = j.wf
  operandBytes : i.operandBytes = j.operandBytes
  eq_of_no_operand : i.operandBytes = 0 → i = j
  bytes : encode i = (encode j).take k ++ [o1, o2].take i.operandBytes

/-- An entry without operand bytes is the same whatever follows it. -/
theorem SameRow.eq_iff {k : Nat} {o1 o2 : Byte} {j i c : Instr} (h : SameRow k o1 o2 j i) (hc : c.operandBytes = 0) :
    i = c ↔ j = c := by
  constructor
  · rintro rfl
    exact (h.eq_of_no_operand hc).symm
  · rintro rfl
    exact h.eq_of_no_operand (h.operandBytes.trans hc)

theorem sameRow_decodeMain (op o1 o2 : Byte) : SameRow 1 o1 o2 (decodeMain op 0#8 0#8) (decodeMain op o1 o2) := by
  unfold decodeMain decodeMain0 decodeMain1 decodeMain2 decodeMain3 aluReg aluAtHl aluImm
  repeat' split
  all_goals constructor <;> simp [encode, Instr.operandBytes, Instr.wf]

theorem sameRow_decodeED (op o1 o2 : Byte) : SameRow 2 o1 o2 (decodeED op 0#8 0#8) (decodeED op o1 o2) := by
  unfold decodeED decodeED1 decodeED2
  repeat' split
  all_goals constructor <;> simp [encode, Instr.operandBytes, Instr.wf]

theorem sameRow_decodeIndex3 (xy : IndexReg) (op o1 o2 : Byte) (hop : op ≠ 0xCB#8) :
    SameRow 2 o1 o2 (decodeIndex3 xy op 0#8 0#8) (decodeIndex3 xy op o1 o2) := by
  unfold decodeIndex3
  split
  · exact absurd rfl hop
  all_goals exact ⟨rfl, rfl, fun _ => rfl, rfl⟩

/-- CB is left out: there the second operand byte selects the entry (R141). -/
theorem sameRow_decodeIndex (xy : IndexReg) (op o1 o2 : Byte) (hop : op ≠ 0xCB#8) :
    SameRow 2 o1 o2 (decodeIndex xy op 0#8 0#8) (decodeIndex xy op o1 o2) := by
  unfold decodeIndex
  split
  · unfold decodeIndex0
    split
    all_goals constructor <;> simp [encode, Instr.operandBytes, Instr.wf]
  · unfold decodeIndex1
    repeat' split
    all_goals constructor <;> simp [encode, Instr.operandBytes, Instr.wf]
  · unfold decodeIndex2 aluXyHalf aluAtXyD
    repeat' split
    all_goals constructor <;> simp [encode, Instr.operandBytes, Instr.wf]
  · exact sameRow_decodeIndex3 xy op o1 o2 hop

theorem operandBytes_decodeCB (op : Byte) : (decodeCB op).operandBytes = 0 := by
  unfold decodeCB rotReg rotAtHl
  repeat' split
  all_goals rfl

theorem operandBytes_decodeIndexCB (xy : IndexReg) (d op : Byte) : (decodeIndexCB xy d op).operandBytes = 2 := by
  unfold decodeIndexCB rotAtXyDR rotAtXyD
  repeat' split
  all_goals rfl

/-- A DD/FD CB entry shows its displacement as the third byte of four. -/
theorem encode_decodeIndexCB_displacement (xy : IndexReg) (d op : Byte) :
    encode (decodeIndexCB xy d op) = xy.prefixByte :: 0xCB#8 :: d :: (encode (decodeIndexCB xy 0#8 op)).drop 3 := by
  unfold decodeIndexCB rotAtXyDR rotAtXyD
  repeat' split
  all_goals rfl

theorem wf_decodeIndexCB (xy : IndexReg) (d op : Byte) : (decodeIndexCB xy d op).wf = true := by
  unfold decodeIndexCB rotAtXyDR rotAtXyD
  repeat' split
  all_goals rfl

/-! ## The 256 entries of each table -/

theorem decodeMain_zero_spells : ∀ op : Byte,
    (decodeMain op 0#8 0#8).wf = true ∧ (encode (decodeMain op 0#8 0#8)).take 1 = [op] := by decide

theorem decodeCB_spells : ∀ op : Byte, (decodeCB op).wf = true ∧ encode (decodeCB op) = [0xCB#8, op] := by decide

theorem decodeED_zero_spells : ∀ op : Byte,
    (decodeED op 0#8 0#8).wf = true ∧ (encode (decodeED op 0#8 0#8)).take 2 = [0xED#8, op] := by decide

theorem decodeIndex_zero_spells (xy : IndexReg) : ∀ op : Byte, op ≠ 0xCB#8 →
    (decodeIndex xy op 0#8 0#8).wf = true ∧ (encode (decodeIndex xy op 0#8 0#8)).take 2 = [xy.prefixByte, op] := by
  cases xy <;> decide

theorem decodeIndexCB_zero_spells (xy : IndexReg) : ∀ op : Byte, (encode (decodeIndexCB xy 0#8 op)).drop 3 = [op] := by
  cases xy <;> decide

theorem decodeIndex_zero_eq_fallbackXy_iff (xy : IndexReg) : ∀ op : Byte,
    decodeIndex xy op 0#8 0#8 = .fallbackXy xy op ↔ isFallback op = true := by
  cases xy <;> decide

theorem decodeED_zero_eq_nopEd_iff : ∀ op : Byte, decodeED op 0#8 0#8 = .nopEd op ↔ edUnassigned op = true := by decide

/-! ## The unassigned cells (R137, R152, R153) -/

theorem ne_fallbackXy_of_isSimple {i : Instr} {xy : IndexReg} {op : Byte} (h : isSimple i = true) : i ≠ .fallbackXy xy op := by
  rintro rfl
  cases h

theorem decodeIndex_eq_fallbackXy_iff (xy : IndexReg) (op o1 o2 : Byte) :
    decodeIndex xy op o1 o2 = .fallbackXy xy op ↔ isFallback op = true := by
  by_cases hop : op = 0xCB#8
  · subst hop
    exact iff_of_false (ne_fallbackXy_of_isSimple (isSimple_decodeIndexCB xy o1 o2)) (by decide)
  · rw [(sameRow_decodeIndex xy op o1 o2 hop).eq_iff rfl, decodeIndex_zero_eq_fallbackXy_iff]

theorem decodeED_eq_nopEd_iff (op o1 o2 : Byte) : decodeED op o1 o2 = .nopEd op ↔ edUnassigned op = true := by
  rw [(sameRow_decodeED op o1 o2).eq_iff rfl, decodeED_zero_eq_nopEd_iff]

/-- Settles O33: each cell by its row with operand bytes 0, and the counts over all 256 bytes. -/
theorem fallbackCellsOfTheIndexMap : Obligations.FallbackCellsOfTheIndexMap :=
  ⟨decodeIndex_eq_fallbackXy_iff, decodeED_eq_nopEd_iff, by decide +kernel, rfl, rfl, rfl, rfl, rfl, by decide +kernel⟩

/-! ## What an entry's encoding is -/

/-- The bytes that bring the machine to an opcode-prefix state. -/
def Pfx.bytes (p : Pfx) : List Byte :=
  match p with
  | .noPfx => []
  | .cb => [0xCB#8]
  | .ed => [0xED#8]
  | .dd => [0xDD#8]
  | .fd => [0xFD#8]

/-- The bytes `pre` and `op`, and as many of `o1` and `o2` as the instruction has operand bytes, are the instruction's encoding. -/
def SpelledBy (pre : List Byte) (op o1 o2 : Byte) (i : Instr) : Prop :=
  i.wf = true ∧ encode i = pre ++ op :: [o1, o2].take i.operandBytes

theorem SameRow.spelledBy {pre : List Byte} {k : Nat} {op o1 o2 : Byte} {j i : Instr} (h : SameRow k o1 o2 j i)
    (hj : j.wf = true ∧ (encode j).take k = pre ++ [op]) : SpelledBy pre op o1 o2 i := by
  refine ⟨h.wf.trans hj.1, ?_⟩
  rw [h.bytes, hj.2, List.append_assoc]
  rfl

theorem spelledBy_decodeIndex (xy : IndexReg) (op o1 o2 : Byte) :
    SpelledBy [xy.prefixByte] op o1 o2 (decodeIndex xy op o1 o2) := by
  by_cases hop : op = 0xCB#8
  · subst hop
    have e : decodeIndex xy 0xCB#8 o1 o2 = decodeIndexCB xy o1 o2 := rfl
    refine e ▸ ⟨wf_decodeIndexCB xy o1 o2, ?_⟩
    rw [encode_decodeIndexCB_displacement, decodeIndexCB_zero_spells, operandBytes_decodeIndexCB]
    rfl
  · exact (sameRow_decodeIndex xy op o1 o2 hop).spelledBy (decodeIndex_zero_spells xy op hop)

theorem spelledBy_decodeAt (p : Pfx) (op o1 o2 : Byte) : SpelledBy p.bytes op o1 o2 (decodeAt p op o1 o2) := by
  cases p
  case noPfx => exact (sameRow_decodeMain op o1 o2).spelledBy (decodeMain_zero_spells op)
  case cb =>
    obtain ⟨hw, hb⟩ := decodeCB_spells op
    refine ⟨hw, hb.trans ?_⟩
    rw [decodeAt, operandBytes_decodeCB]
    rfl
  case ed => exact (sameRow_decodeED op o1 o2).spelledBy (decodeED_zero_spells op)
  case dd => exact spelledBy_decodeIndex .ix op o1 o2
  case fd => exact spelledBy_decodeIndex .iy op o1 o2

/-! ## Decoding a byte sequence -/

theorem bytes_of_pfxOfByte {op : Byte} {p : Pfx} (h : pfxOfByte op = some p) : p.bytes = [op] := by
  unfold pfxOfByte at h
  split at h <;> cases h <;> rfl

/-- What a byte sequence is decoded as: nothing, CB after DD or FD with nothing after it, or an opcode byte in some state. -/
theorem decode_cases (bytes : List Byte) :
    bytes = [] ∨
    (∃ xy : IndexReg, bytes = [xy.prefixByte, 0xCB#8] ∧ decode bytes = .ok (.prefixCbAfterXy xy, [])) ∨
    ∃ (p : Pfx) (op : Byte) (tail : List Byte), bytes = p.bytes ++ op :: tail ∧ decode bytes = decodeFrom p op tail := by
  cases bytes with
  | nil => exact .inl rfl
  | cons op rest =>
    refine .inr ?_
    unfold decode
    dsimp only
    split
    · next hp => exact .inl ⟨.ix, by rw [← List.singleton_append, ← bytes_of_pfxOfByte hp]; rfl, rfl⟩
    · next hp => exact .inl ⟨.iy, by rw [← List.singleton_append, ← bytes_of_pfxOfByte hp]; rfl, rfl⟩
    · next p op2 rest2 _ _ hp => exact .inr ⟨p, op2, rest2, by rw [bytes_of_pfxOfByte hp]; rfl, rfl⟩
    · exact .inr ⟨.noPfx, op, _, rfl, rfl⟩

/-- The operand bytes are the bytes read after the opcode byte. -/
theorem take_getD_append_drop (tail : List Byte) (n : Nat) (hn : n ≤ 2) (hl : n ≤ tail.length) :
    [tail.getD 0 0#8, tail.getD 1 0#8].take n ++ tail.drop n = tail := by
  match n, tail with
  | 0, _ => rfl
  | 1, _ :: _ => rfl
  | 2, _ :: _ :: _ => rfl

theorem decodeFrom_ok {p : Pfx} {op : Byte} {tail rest : List Byte} {i : Instr} (h : decodeFrom p op tail = .ok (i, rest)) :
    ∃ o1 o2, i = decodeAt p op o1 o2 ∧ tail = [o1, o2].take i.operandBytes ++ rest := by
  unfold decodeFrom at h
  dsimp only at h
  split at h
  · cases h
  · next hl =>
    cases h
    exact ⟨_, _, rfl, (take_getD_append_drop tail _ (operandBytes_le _) (Nat.le_of_not_lt hl)).symm⟩

/-- Two bytes after the opcode byte are enough for any entry. -/
theorem decodeFrom_of_two_le (p : Pfx) (op : Byte) (tail : List Byte) (h : 2 ≤ tail.length) :
    ∃ i rest, decodeFrom p op tail = .ok (i, rest) :=
  ⟨_, _, if_neg (Nat.not_lt.mpr ((operandBytes_le _).trans h))⟩

/-- Settles O32: an accepted sequence is the encoding of the entry its opcode byte selects, then what is left over. -/
theorem encodeDecodeReproducesTheBytes : Obligations.EncodeDecodeReproducesTheBytes := by
  constructor
  · intro bytes rest i h
    obtain rfl | ⟨xy, rfl, e⟩ | ⟨p, op, tail, rfl, e⟩ := decode_cases bytes
    · cases h
    · rw [e] at h
      cases h
      exact ⟨rfl, rfl⟩
    · rw [e] at h
      obtain ⟨o1, o2, rfl, rfl⟩ := decodeFrom_ok h
      obtain ⟨hw, hb⟩ := spelledBy_decodeAt p op o1 o2
      exact ⟨hw, by rw [hb, List.append_assoc, List.cons_append]⟩
  · intro bytes hl
    obtain rfl | ⟨xy, rfl, e⟩ | ⟨p, op, tail, rfl, e⟩ := decode_cases bytes
    · cases hl
    · exact ⟨_, _, e⟩
    · rw [e]
      refine decodeFrom_of_two_le p op tail ?_
      have hp : p.bytes.length ≤ 1 := by cases p <;> decide
      rw [List.length_append, List.length_cons] at hl
      omega

end Sys2Proof
end

section
/-! SUPPORT. Decoding an encoding (30_encoding.md R110, R150 to R156): the fields of an opcode byte are read back as they were
written, and the bytes after the instruction are left. -/

namespace Sys2Proof

open Machine

/-! ## The fields of an opcode byte (R111, R112) -/

theorem fieldX_opXYZ : ∀ x y z, fieldX (opXYZ x y z) = x := by decide

theorem fieldY_opXYZ : ∀ x y z, fieldY (opXYZ x y z) = y := by decide

theorem fieldZ_opXYZ : ∀ x y z, fieldZ (opXYZ x y z) = z := by decide

theorem reg8OfField_field (r : Reg8) : reg8OfField r.field = some r := by cases r <;> rfl

theorem bitVec3_cases (k : BitVec 3) :
    k = 0#3 ∨ k = 1#3 ∨ k = 2#3 ∨ k = 3#3 ∨ k = 4#3 ∨ k = 5#3 ∨ k = 6#3 ∨ k = 7#3 := by
  revert k
  decide

/-! ## The entry after a prefix -/

theorem decodeFrom_of_no_operand {p : Pfx} {op : Byte} {rest : List Byte} {i : Instr}
    (h : decodeAt p op (rest.getD 0 0#8) (rest.getD 1 0#8) = i) (hn : i.operandBytes = 0) :
    decodeFrom p op rest = .ok (i, rest) := by
  subst h
  simp only [decodeFrom, hn, List.drop_zero, Nat.not_lt_zero, if_false]

theorem decode_cb (op : Byte) (rest : List Byte) : decode (0xCB#8 :: op :: rest) = .ok (decodeCB op, rest) :=
  decodeFrom_of_no_operand rfl (operandBytes_decodeCB op)

/-- An entry of the ED table that the operand bytes 0 give, where it has none. -/
theorem decode_ed {op : Byte} {i : Instr} (rest : List Byte) (h : decodeED op 0#8 0#8 = i) (hn : i.operandBytes = 0) :
    decode (0xED#8 :: op :: rest) = .ok (i, rest) :=
  decodeFrom_of_no_operand (((sameRow_decodeED op _ _).eq_iff hn).mpr h) hn

theorem decode_index {xy : IndexReg} {op : Byte} (rest : List Byte) (hop : op ≠ 0xCB#8) :
    decode (xy.prefixByte :: op :: rest) = decodeFrom xy.pfx op rest := by
  cases xy <;> simp [decode, IndexReg.prefixByte, IndexReg.pfx, pfxOfByte, hop]

theorem decode_indexCB (xy : IndexReg) (d op : Byte) (rest : List Byte) :
    decode (xy.prefixByte :: 0xCB#8 :: d :: op :: rest) = .ok (decodeIndexCB xy d op, rest) := by
  have h : decode (xy.prefixByte :: 0xCB#8 :: d :: op :: rest) = decodeFrom xy.pfx 0xCB#8 (d :: op :: rest) := by
    cases xy <;> rfl
  have entry : decodeAt xy.pfx 0xCB#8 d op = decodeIndexCB xy d op := by cases xy <;> rfl
  rw [h]
  simp [decodeFrom, entry, operandBytes_decodeIndexCB]

theorem decode_fallbackXy (xy : IndexReg) (op : Byte) (rest : List Byte) (h : isFallback op = true) :
    decode (xy.prefixByte :: op :: rest) = .ok (.fallbackXy xy op, rest) := by
  have hop : op ≠ 0xCB#8 := by
    rintro rfl
    cases h
  rw [decode_index rest hop]
  refine decodeFrom_of_no_operand ?_ rfl
  cases xy
  · exact (decodeIndex_eq_fallbackXy_iff .ix op _ _).mpr h
  · exact (decodeIndex_eq_fallbackXy_iff .iy op _ _).mpr h

/-! ## Every instruction -/

/-- Whether another byte would continue the instruction's encoding: the rows that only enter another table (R133, R136, R141). -/
def isOpen (i : Instr) : Bool :=
  match i with
  | .prefixCb | .prefixEd | .prefixXy _ | .prefixCbAfterXy _ => true
  | _ => false

/-- An instruction is read back from its encoding, and the bytes after it are left. -/
theorem decode_encode_append (i : Instr) (rest : List Byte) (hw : i.wf = true) (ho : isOpen i = false) :
    decode (encode i ++ rest) = .ok (i, rest) := by
  cases i
  case prefixCb | prefixEd | prefixXy | prefixCbAfterXy => cases ho
  -- a word operand
  case ldAtNnHl nn | ldAtNnA nn | ldHlAtNn nn | ldAAtNn nn | jpNn nn | callNn nn =>
    conv_rhs => rw [← pair_hi8_lo8 nn]
    rfl
  case ldRpNn rp nn | ldAtNnRp rp nn | ldRpAtNn rp nn =>
    conv_rhs => rw [← pair_hi8_lo8 nn]
    cases rp <;> rfl
  case jpCcNn cc nn | callCcNn cc nn =>
    conv_rhs => rw [← pair_hi8_lo8 nn]
    cases cc <;> rfl
  case ldXyNn xy nn | ldAtNnXy xy nn | ldXyAtNn xy nn =>
    conv_rhs => rw [← pair_hi8_lo8 nn]
    cases xy <;> rfl
  -- a number in the opcode byte
  case rst p => rcases bitVec3_cases p with rfl | rfl | rfl | rfl | rfl | rfl | rfl | rfl <;> rfl
  case bitR | resR | setR =>
    refine (decode_cb _ rest).trans ?_
    rw [decodeCB, fieldX_opXYZ, fieldY_opXYZ, fieldZ_opXYZ, reg8OfField_field]
    rfl
  case bitAtHl | resAtHl | setAtHl =>
    refine (decode_cb _ rest).trans ?_
    rw [decodeCB, fieldX_opXYZ, fieldY_opXYZ, fieldZ_opXYZ]
    rfl
  case resAtXyDR xy d _ _ | setAtXyDR xy d _ _ =>
    refine (decode_indexCB xy d _ rest).trans ?_
    rw [decodeIndexCB, fieldX_opXYZ, fieldY_opXYZ, fieldZ_opXYZ, reg8OfField_field]
    rfl
  case bitAtXyD xy d _ _ | resAtXyD xy d _ | setAtXyD xy d _ =>
    refine (decode_indexCB xy d _ rest).trans ?_
    rw [decodeIndexCB, fieldX_opXYZ, fieldY_opXYZ, fieldZ_opXYZ]
    rfl
  -- bits that choose among identical entries
  case neg dup | retn dup | im0 dup | im1 dup | im2 dup => exact decode_ed rest (by revert dup; decide) rfl
  -- the unassigned cells
  case nopEd op => exact decode_ed rest ((decodeED_zero_eq_nopEd_iff op).mpr hw) rfl
  case fallbackXy xy op => exact decode_fallbackXy xy op rest hw
  -- the DD/FD CB rows
  case rlcAtXyD xy d | rrcAtXyD xy d | rlAtXyD xy d | rrAtXyD xy d | slaAtXyD xy d | sraAtXyD xy d | sllAtXyD xy d
      | srlAtXyD xy d => exact decode_indexCB xy d _ rest
  case rlcAtXyDR xy d r | rrcAtXyDR xy d r | rlAtXyDR xy d r | rrAtXyDR xy d r | slaAtXyDR xy d r | sraAtXyDR xy d r
      | sllAtXyDR xy d r | srlAtXyDR xy d r =>
    refine (decode_indexCB xy d _ rest).trans ?_
    cases r <;> rfl
  -- a register, a pair or a condition
  case incR r | decR r | ldRN r _ | ldRAtHl r | ldAtHlR r | addAR r | adcAR r | subR r | sbcAR r | andR r | xorR r | orR r
      | cpR r | inRC r | outCR r | rlcR r | rrcR r | rlR r | rrR r | slaR r | sraR r | sllR r | srlR r => cases r <;> rfl
  case ldRR dst src => cases dst <;> cases src <;> rfl
  case addHlRp rp | incRp rp | decRp rp | popRp2 rp | pushRp2 rp | sbcHlRp rp | adcHlRp rp => cases rp <;> rfl
  case retCc cc => cases cc <;> rfl
  case jrCc cc e =>
    cases cc
    case po | pe | p | m => cases hw
    all_goals rfl
  -- an index register, with a half, a pair or a register
  case incXy xy | decXy xy | popXy xy | exAtSpXy xy | pushXy xy | jpXy xy | ldSpXy xy | prefixEdAfterXy xy
      | incAtXyD xy _ | decAtXyD xy _ | ldAtXyDN xy _ _ | addAAtXyD xy _ | adcAAtXyD xy _ | subAtXyD xy _ | sbcAAtXyD xy _
      | andAtXyD xy _ | xorAtXyD xy _ | orAtXyD xy _ | cpAtXyD xy _ => cases xy <;> rfl
  case prefixChain xy second => cases xy <;> cases second <;> rfl
  case incXyHalf xy half | decXyHalf xy half | ldXyHalfN xy half _ | addAXyHalf xy half | adcAXyHalf xy half
      | subXyHalf xy half | sbcAXyHalf xy half | andXyHalf xy half | xorXyHalf xy half | orXyHalf xy half
      | cpXyHalf xy half => cases xy <;> cases half <;> rfl
  case addXyRp xy rp => cases xy <;> cases rp <;> rfl
  case ldRAtXyD xy r _ | ldAtXyDR xy _ r => cases xy <;> cases r <;> rfl
  case ldXyHalfR xy half src => cases xy <;> cases half <;> cases src <;> rfl
  case ldRXyHalf xy r half =>
    cases r
    case h | l => cases hw
    all_goals cases xy <;> cases half <;> rfl
  -- no operand but bytes
  all_goals rfl

/-- Settles O31: the bytes after an instruction are left, and a row that another byte would continue has none after it. -/
theorem decodeEncodeRoundTrip : Obligations.DecodeEncodeRoundTrip := by
  constructor
  · intro i hw
    cases ho : isOpen i with
    | false => simpa only [List.append_nil] using decode_encode_append i [] hw ho
    | true =>
      cases i
      case prefixCb | prefixEd => rfl
      case prefixXy xy | prefixCbAfterXy xy => cases xy <;> rfl
      all_goals cases ho
  · intro i rest hw hcb hed hxy hxycb
    refine decode_encode_append i rest hw ?_
    cases i
    case prefixCb => exact absurd rfl hcb
    case prefixEd => exact absurd rfl hed
    case prefixXy xy => exact absurd rfl (hxy xy)
    case prefixCbAfterXy xy => exact absurd rfl (hxycb xy)
    all_goals rfl

/-- Settles O34: each word is decoded as its format is read. -/
theorem specWordsDecode : Obligations.SpecWordsDecode :=
  ⟨rfl, rfl, rfl, rfl, rfl, rfl, rfl, rfl, rfl, rfl, rfl⟩

end Sys2Proof
end

section
/-! SUPPORT. A step in the words of the statements (30_encoding.md R130 to R138): the fetch, the instruction, the end of the step;
the two rows that run another entry (R137, R141); the rows that leave a prefix pending (R133, R136); and the delay of EI (R388). -/

namespace Sys2Proof.Machine

open Claim

/-! ## Operand reads -/

theorem fetchOperands_eq (s : State) {n : Nat} (hn : n ≤ 2) :
    s.fetchOperands n =
      { s with pc := s.pc + BitVec.ofNat 16 n, history := operandEvents s s.pc n ++ s.history } := by
  match n, hn with
  | 0, _ =>
    have h : s.pc + BitVec.ofNat 16 0 = s.pc := BitVec.add_zero s.pc
    rw [h]
    rfl
  | 1, _ => rfl
  | 2, _ => exact s.fetchOperands_two

/-! ## The fetch -/

theorem State.substitute_of_no_breakpoint {s : State} (a : Word) (op : Byte)
    (h : s.pfx = .noPfx → s.bp.contains a = false) : s.substitute a op = (op, s) := by
  unfold State.substitute
  split
  · next hp => exact s.consultBp_of_not_mem a op (h hp)
  · rfl

theorem State.substitute_of_breakpoint {s : State} (a : Word) (op : Byte) (hp : s.pfx = .noPfx)
    (hb : s.bp.contains a = true) :
    s.substitute a op =
      (hookResult s.bpHook a op, { s with history := .breakpoint a op (hookResult s.bpHook a op) :: s.history }) :=
  (if_pos hp).trans (s.consultBp_of_mem a op hb)

/-- The instruction that opcode byte `op` selects, and the state it starts from, `h` the history the opcode fetch leaves. -/
theorem State.fetchInstr_of_substitute {s : State} {op : Byte} {h : List Event}
    (e : (s.fetchOp s.pc).2.incR.substitute s.pc (s.peek s.pc) = (op, { s with r7 := s.r7 + 1#7, history := h })) :
    s.fetchInstr =
      let i := decodeAt s.pfx op (s.peek (s.pc + 1#16)) (s.peek (s.pc + 2#16))
      (i, { fetched s i.operandBytes with history := operandEvents s (s.pc + 1#16) i.operandBytes ++ h }) := by
  have second : s.pc + 1#16 + 1#16 = s.pc + 2#16 := by bv_omega
  have opcode : s.fetchOpcode =
      (op, { s with r7 := s.r7 + 1#7, history := h, pc := s.pc + 1#16, qCur := false }) := by
    rw [fetchOpcode_eq_substitute, e]
    rfl
  unfold State.fetchInstr
  rw [opcode]
  dsimp only [State.peek]
  rw [second, fetchOperands_eq _ (operandBytes_le _)]
  rfl

/-- The instruction starts from its fetched state, but that the history also shows a breakpoint consulted. -/
theorem State.fetchInstr_snd (s : State) :
    ∃ h, s.fetchInstr.2 = { fetched s s.fetchInstr.1.operandBytes with history := h } := by
  obtain ⟨h, e⟩ := (s.fetchOp s.pc).2.incR.substitute_frame s.pc (s.peek s.pc)
  rw [State.fetchInstr_of_substitute (Prod.ext rfl e)]
  exact ⟨_, rfl⟩

/-! ## The step -/

theorem State.endStep_eq_finish (t : State) : t.endStep = finish (.next t) := by
  unfold State.endStep finish
  rw [State.boundary_eq]

/-- At an instruction boundary with trace off, Q is recorded and the interrupts are sampled. -/
theorem finish_of_boundary {t : State} (hp : t.pfx = .noPfx) (ht : t.traceEnabled = false) :
    finish (.next t) = State.sampleInterrupts { t with qLast := t.qCur, qCur := false } := by
  simp only [finish, hp, ht, if_true, Bool.false_eq_true, if_false]

theorem step_eq_finish {s u : State} {i : Instr} (h : s.fetchInstr = (i, u)) : step s = finish (exec i u) := by
  unfold step
  rw [h]
  dsimp only
  cases exec i u with
  | next t => exact t.endStep_eq_finish
  | fault r => rfl
  | refused r => rfl

/-- Settles O4: the opcode fetch leaves the byte read, for no breakpoint is consulted or none is set. -/
theorem stepRunsDecodedInstruction : Obligations.StepRunsDecodedInstruction := by
  rintro s i hb rfl
  exact step_eq_finish (State.fetchInstr_of_substitute (State.substitute_of_no_breakpoint _ _ hb))

theorem hookResult_of_no_match (table : List HookEntry) (a : Word) (op : Byte)
    (h : ∀ e ∈ table, e.addr = a → e.op ≠ op) : hookResult table a op = op := by
  induction table with
  | nil => rfl
  | cons e rest ih =>
    unfold hookResult
    rw [if_neg fun he => h e (.head _) he.1 he.2]
    exact ih fun e' he' => h e' (.tail _ he')

/-- Settles O5: the substitution changes the byte that is decoded and records the hook's call, after the fetch event. -/
theorem breakpointSubstitutesForDecodingOnly : Obligations.BreakpointSubstitutesForDecodingOnly := by
  rintro s i op hp hb rfl rfl
  refine ⟨?_, hookResult_of_no_match s.bpHook s.pc (s.peek s.pc)⟩
  have e := State.fetchInstr_of_substitute (State.substitute_of_breakpoint (s := (s.fetchOp s.pc).2.incR) _ (s.peek s.pc) hp hb)
  rw [hp] at e
  exact step_eq_finish e

/-! ## The rows that run another entry -/

theorem exec_completes (i : Instr) (s : State) : ∃ t, exec i s = .next t :=
  let ⟨t, e, _⟩ := exec_sameOff i s
  ⟨t, e⟩

theorem exec_fallbackXy_of_consultBp {xy : IndexReg} {op op' : Byte} {s : State} {h : List Event}
    (e : s.consultBp (s.pc - 1#16) op = (op', { s with history := h })) :
    exec (.fallbackXy xy op) s =
      let i := decodeMain op' (s.peek s.pc) (s.peek (s.pc + 1#16))
      exec i { s with
        pc := s.pc + BitVec.ofNat 16 i.operandBytes, history := operandEvents s s.pc i.operandBytes ++ h } := by
  rw [exec_fallbackXy, e]
  dsimp only
  rw [fetchOperands_eq _ (operandBytes_le _)]
  rfl

/-- Settles O8: the fallback consults the breakpoints at its byte's address, then runs the main-table entry. -/
theorem fallbackRunsTheMainTableEntry : Obligations.FallbackRunsTheMainTableEntry := by
  intro s xy op _
  exact ⟨fun hb => exec_fallbackXy_of_consultBp (s.consultBp_of_not_mem _ op hb),
    fun hb => exec_fallbackXy_of_consultBp (s.consultBp_of_mem _ op hb), exec_completes _ s⟩

/-- Settles O9: two operand reads, then the DD/FD CB entry. -/
theorem indexCbReadsDisplacementThenOpcode : Obligations.IndexCbReadsDisplacementThenOpcode := by
  intro s xy
  refine ⟨?_, exec_completes _ s⟩
  rw [exec_prefixCbAfterXy, State.fetchOperands_two]
  rfl

/-! ## The rows that leave a prefix pending -/

/-- Settles O7: each of the five rows is one assignment of the prefix. -/
theorem prefixChainsKeepTheLastPrefix : Obligations.PrefixChainsKeepTheLastPrefix :=
  fun _ _ => ⟨rfl, rfl, rfl, rfl, rfl, rfl, rfl⟩

/-- An instruction of one of the five tables that changes the prefix has no operand bytes and changes nothing else. -/
theorem exec_pfx_of_isSimple {i : Instr} {s t : State} (hs : isSimple i = true) (h : exec i s = .next t)
    (hp : t.pfx ≠ s.pfx) : i.operandBytes = 0 ∧ t = { s with pfx := t.pfx } := by
  obtain ⟨u, e, k⟩ := execFacts_of_isSimple i s hs
  rw [e] at h
  cases h
  have pfx : t.pfx = (controlAfter i s).pfx := congrArg Control.pfx k.control
  cases i
  case prefixCb | prefixEd | prefixXy | prefixChain | prefixEdAfterXy =>
    cases e
    exact ⟨rfl, rfl⟩
  all_goals exact absurd pfx hp

/-- The same of every row, but that the fallback of a byte a hook substitutes records the hook's call. -/
theorem exec_pfx {i : Instr} {s t : State} (h : exec i s = .next t) (hp : t.pfx ≠ s.pfx) :
    i.operandBytes = 0 ∧ t = { s with pfx := t.pfx, history := t.history } := by
  have simple : isSimple i = true → i.operandBytes = 0 ∧ t = { s with pfx := t.pfx, history := t.history } := by
    intro hs
    obtain ⟨hn, ht⟩ := exec_pfx_of_isSimple hs h hp
    refine ⟨hn, ?_⟩
    rw [ht]
  cases i
  case prefixCbAfterXy xy =>
    have k := execFacts_of_not_fallback (fun _ _ e => by cases e) h
    exact absurd (congrArg Control.pfx k.control) hp
  case fallbackXy xy op =>
    obtain ⟨hist, e⟩ := s.consultBp_frame (s.pc - 1#16) op
    rw [exec_fallbackXy_of_consultBp (Prod.ext rfl e)] at h
    obtain ⟨hn, ht⟩ := exec_pfx_of_isSimple (isSimple_decodeMain ..) h hp
    rw [hn] at ht
    have pc : s.pc + BitVec.ofNat 16 0 = s.pc := BitVec.add_zero s.pc
    refine ⟨rfl, ?_⟩
    rw [ht, pc]
  all_goals exact simple rfl

/-- Sampling leaves the prefix as it is. -/
theorem State.pfx_of_sampleInterrupts {s t : State} (h : s.sampleInterrupts = .next t) : t.pfx = s.pfx := by
  obtain ⟨_, k⟩ | ⟨_, _, _, k⟩ | ⟨_, rfl⟩ := State.sampleInterrupts_next h
  · rw [k.frame]
  · rw [k.frame]
  · rfl

/-- A step that leaves a prefix pending ends with its instruction. -/
theorem eq_of_endStep {u t : State} (h : u.endStep = .next t) (hp : t.pfx ≠ .noPfx) : t = u := by
  by_cases hu : u.pfx = .noPfx
  · rw [u.endStep_of_boundary hu, State.boundary_eq] at h
    exact absurd ((State.pfx_of_sampleInterrupts h).trans hu) hp
  · rw [u.endStep_of_pending hu] at h
    cases h
    rfl

/-- Settles O6: the prefix is consumed by the fetch, so the instruction set it, and such an instruction does nothing else. -/
theorem prefixByteStepOnlyRecordsThePrefix : Obligations.PrefixByteStepOnlyRecordsThePrefix := by
  intro s t h hp
  obtain ⟨u, e, et⟩ := step_next h
  obtain rfl := eq_of_endStep et hp
  obtain ⟨hist, ef⟩ := s.fetchInstr_snd
  have consumed : s.fetchInstr.2.pfx = .noPfx := by rw [ef]; rfl
  obtain ⟨hn, ht⟩ := exec_pfx e (consumed ▸ hp)
  have pc : s.pc + 1#16 + BitVec.ofNat 16 0 = s.pc + 1#16 := BitVec.add_zero _
  rw [ef, hn, fetched, pc] at ht
  exact ht

/-! ## The delay of EI -/

theorem sampleInterrupts_of_delay {s : State} (hn : s.nmiPending = false) (hd : s.pendingEI = true) :
    s.sampleInterrupts = .next s := s.sampleInterrupts_of_none (by simp [hn]) (by simp [hd])

/-- Settles O15: EI sets the delay, which the sampling at its boundary reads; the next fetch ends it. -/
theorem enableDelayHoldsOffOneInstruction : Obligations.EnableDelayHoldsOffOneInstruction := by
  constructor
  · intro s hp hb hop ht
    have e : step s = finish (exec .ei (fetched s 0)) := by
      refine stepRunsDecodedInstruction s .ei (fun _ => hb) ?_
      rw [hp, hop]
      rfl
    have pc : s.pc + 1#16 + BitVec.ofNat 16 0 = s.pc + 1#16 := BitVec.add_zero _
    intro u
    have boundary : step s = u.sampleInterrupts := by
      rw [e, fetched, pc, hop]
      refine Eq.trans (finish_of_boundary rfl ht) ?_
      simp only [u, hp]
      rfl
    rw [boundary]
    refine ⟨fun hn => sampleInterrupts_of_delay hn rfl, fun hn => ?_⟩
    rw [u.sampleInterrupts_of_nmi hn, acceptNMI_eq]
    rfl
  · intro s hp
    obtain ⟨pc, h, e⟩ := s.fetchInstr_frame
    rw [e]
    simp [hp]

end Sys2Proof.Machine
end

section
/-! SUPPORT. The rotates and shifts in integer arithmetic (46_rotate_shift.md R434), on a byte of memory and with the copy to a
register (30_encoding.md R141, R154). -/

namespace Sys2Proof.Machine

open Claim

/-! ## The eight operations -/

theorem shiftLeftIn_eq : ∀ (v : Byte) (low : Bool), shiftLeftIn v low = BitVec.ofNat 8 (2 * v.toNat % 256 + low.toNat) := by
  decide

theorem shiftRightIn_eq : ∀ (v : Byte) (high : Bool),
    shiftRightIn v high = BitVec.ofNat 8 (v.toNat / 2 + 128 * high.toNat) := by
  decide

theorem toNat_bit7 : ∀ v : Byte, (v.getLsbD 7).toNat = v.toNat / 128 := by decide

theorem toNat_bit0 : ∀ v : Byte, (v.getLsbD 0).toNat = v.toNat % 2 := by decide

theorem rotVal_eq_rotByte (op : RotOp) (v f : Byte) : rotVal op v (flagC f) = rotByte op v f := by
  cases op <;> simp only [rotVal, rotByte, rotated, shiftLeftIn_eq, shiftRightIn_eq, toNat_bit7, toNat_bit0] <;> rfl

theorem rotOut_eq_rotated (op : RotOp) (v : Byte) (c : Bool) : rotOut op v = (rotated op v.toNat c).2 := by
  cases op <;> exact (bitOf_toNat v _).symm

theorem rot8_eq (op : RotOp) (v f : Byte) : rot8 op v (flagC f) = { val := rotByte op v f, f := rotFlags op v f } := by
  rw [rot8, rotVal_eq_rotByte, rotOut_eq_rotated op v (flagC f), ← parityFlags_eq_szpF]
  rfl

/-! ## The operation on a byte of memory -/

/-- The byte read, then the result stored and every flag written (R441). -/
theorem State.rotAt_eq (s : State) (op : RotOp) (a : Word) :
    s.rotAt op a = (rotByte op (s.peek a) s.f,
      { stored (loaded s a) a (rotByte op (s.peek a) s.f) with f := rotFlags op (s.peek a) s.f, qCur := true }) := by
  have unfolded : s.rotAt op a = ((rot8 op (s.peek a) (flagC s.f)).val,
    ((s.memRead a).2.memWrite a (rot8 op (s.peek a) (flagC s.f)).val).setFQ (rot8 op (s.peek a) (flagC s.f)).f) := rfl
  rw [unfolded, rot8_eq]
  rfl

/-- MEMPTR at XY + d, then the operation on that byte (R442). -/
theorem State.rotAtXyD_eq (s : State) (op : RotOp) (xy : IndexReg) (d : Byte) :
    s.rotAtXyD op xy d =
      { stored (readXy s xy d) (addr s xy d) (rotByte op (s.peek (addr s xy d)) s.f) with
        f := rotFlags op (s.peek (addr s xy d)) s.f, qCur := true } := by
  rw [readXy_eq, addr_eq_ea]
  exact congrArg Prod.snd (State.rotAt_eq (s.indexEA xy d).2 op (s.ea xy d))

/-- The copy form is the form without the copy, then a write of the result to the register (R443). -/
theorem State.rotAtXyDR_eq (s : State) (op : RotOp) (xy : IndexReg) (d : Byte) (r : Reg8) :
    s.rotAtXyDR op xy d r = (s.rotAtXyD op xy d).setReg8 r (rotByte op (s.peek (addr s xy d)) s.f) := by
  rw [addr_eq_ea]
  exact congrArg (State.setReg8 (s.rotAtXyD op xy d) r)
    (congrArg Prod.fst (State.rotAt_eq (s.indexEA xy d).2 op (s.ea xy d)))

theorem loads_rotAtXyDR (s : State) (op : RotOp) (xy : IndexReg) (d : Byte) (r : Reg8) :
    (s.rotAtXyDR op xy d r).reg8 r = rotByte op (s.peek (addr s xy d)) s.f ∧
      (∀ q, q ≠ r → (s.rotAtXyDR op xy d r).reg8 q = s.reg8 q) ∧
      { s.rotAtXyDR op xy d r with a := s.a, b := s.b, c := s.c, d := s.d, e := s.e, h := s.h, l := s.l } =
        s.rotAtXyD op xy d := by
  rw [State.rotAtXyDR_eq]
  exact loads_setReg8 s (s.rotAtXyD op xy d) r _ fun q => by cases q <;> rfl

/-- Settles O55: one operation on the byte at XY + d, and the copy forms are one register write after it. -/
theorem rotatesOfIndexedMemory : Obligations.RotatesOfIndexedMemory := by
  intro s r xy d
  dsimp only
  simp only [← State.rotAtXyD_eq]
  have copies := fun op => loads_rotAtXyDR s op xy d r
  exact ⟨rfl, ⟨_, rfl, copies .rlc⟩, rfl, ⟨_, rfl, copies .rrc⟩, rfl, ⟨_, rfl, copies .rl⟩, rfl, ⟨_, rfl, copies .rr⟩,
    rfl, ⟨_, rfl, copies .sla⟩, rfl, ⟨_, rfl, copies .sra⟩, rfl, ⟨_, rfl, copies .sll⟩, rfl, ⟨_, rfl, copies .srl⟩⟩

end Sys2Proof.Machine
end

section
/-! SUPPORT. Stores of one byte, loads and stores of A through a pointer, and the loads between A and I or R (40_load8.md R204
to R217). -/

namespace Sys2Proof.Machine

open Claim

/-! ## Byte stores and loads of A (R204 to R213) -/

theorem lo8_add_one (p : Word) : (lo8 (p + 1#16)).toNat = (p.toNat + 1) % 256 := by
  rw [toNat_lo8, BitVec.toNat_add]
  exact Nat.mod_mod_of_dvd (p.toNat + 1) (by decide)

/-- MEMPTR after a store of A: the low byte of the pointer plus 1 carries nothing into A's byte (R211). -/
theorem wordOf_store_memptr (a : Byte) (p : Word) :
    wordOf (a.toNat * 256 + (p.toNat + 1) % 256) = storeAMemptr a p := by
  have low : ((p.toNat : Int) + 1) % 256 = ((lo8 (p + 1#16)).toNat : Nat) := by
    rw [lo8_add_one]
    rfl
  rw [low, wordOf_mul_add]
  rfl

/-- Settles O36: each form is one store or one read; MEMPTR's two bytes and the address XY + d are those of the model. -/
theorem byteStoresAndAccumulatorLoads : Obligations.ByteStoresAndAccumulatorLoads := by
  intro s r n d xy nn
  dsimp only
  simp only [wordOf_store_memptr, addr_eq_ea]
  exact ⟨rfl, rfl, rfl, rfl, rfl, rfl, rfl, rfl, rfl, rfl⟩

/-! ## Loads between A and I or R (R214 to R217) -/

/-- The flags of a load from I or R in the statement's words (R214). -/
theorem ldAirF_eq (v f : Byte) (pv : Bool) :
    ldAirF v f pv =
      mkF (128 ≤ v.toNat) (v.toNat = 0) (bitOf v.toNat 5) false (bitOf v.toNat 3) pv false (flagC f) := by
  simp only [ldAirF, bit7_eq, eq_zero_iff, bitOf_toNat]

/-- The byte LD A,R copies: the low seven bits, with bit 7 held apart (10_state.md R26). -/
theorem byteOf_r_parts (s : State) : byteOf (s.r7.toNat + 128 * s.rhi.toNat) = s.r := by
  have value : (s.r7.toNat : Int) + 128 * s.rhi.toNat = s.r.toNat := by
    rw [toNat_r]
    push_cast
    exact Int.add_comm _ _
  rw [value, byteOf_toNat]

theorem exec_ldRA (s : State) :
    exec .ldRA s = .next { s with r7 := BitVec.ofNat 7 s.a.toNat, rhi := decide (128 ≤ s.a.toNat) } := by
  rw [← bit7_eq]
  rfl

/-- Settles O37: the two loads into A differ in the byte taken, whose flags are `ldAirF_eq`; R is written in its two parts. -/
theorem interruptAndRefreshLoads : Obligations.InterruptAndRefreshLoads := by
  intro s
  dsimp only
  rw [byteOf_r_parts, ← ldAirF_eq, ← ldAirF_eq]
  exact ⟨rfl, rfl, rfl, exec_ldRA s⟩

end Sys2Proof.Machine
end

section
/-! SUPPORT. The 16-bit loads, PUSH and POP in the words of the statements: a load is one write of a pair, or of an index
register, after its operand's read (41_load16.md R240 to R253). -/

namespace Sys2Proof.Machine

open Claim

/-! ## Loads (R240 to R244, R248, R249) -/

/-- The word read and what the read leaves: two bytes recorded, MEMPTR at the second (R242). -/
theorem State.loadWord_eq (s : State) (nn : Word) :
    s.loadWord nn = (wordAt s nn, { loaded (loaded s nn) (nn + 1#16) with memptr := nn + 1#16 }) := by
  rw [State.loadWord, memRead16_eq_loaded]

/-- A write of one pair is what the statement asks of a load. -/
theorem loads_setRp (s u : State) (rp : Rp) (v : Word) (hu : ∀ q, u.rp q = s.rp q) :
    (u.setRp rp v).rp rp = v ∧ (∀ q, q ≠ rp → (u.setRp rp v).rp q = s.rp q) ∧
      { u.setRp rp v with b := s.b, c := s.c, d := s.d, e := s.e, h := s.h, l := s.l, sp := s.sp } =
        { u with b := s.b, c := s.c, d := s.d, e := s.e, h := s.h, l := s.l, sp := s.sp } := by
  refine ⟨u.rp_setRp rp v, fun q hq => ?_, by cases rp <;> rfl⟩
  rw [u.rp_setRp_of_ne rp q v hq, hu]

/-- A write of one index register is what the statement asks of a load into XY. -/
theorem loads_setIndex (s u : State) (xy : IndexReg) (v : Word) (hu : ∀ q, u.index q = s.index q) :
    (u.setIndex xy v).index xy = v ∧ (∀ q, q ≠ xy → (u.setIndex xy v).index q = s.index q) ∧
      { u.setIndex xy v with ix := s.ix, iy := s.iy } = { u with ix := s.ix, iy := s.iy } := by
  refine ⟨u.index_setIndex xy v, fun q hq => ?_, by cases xy <;> rfl⟩
  rw [u.index_setIndex_of_ne xy q v hq, hu]

/-- Settles O38: each load writes its destination in the state itself, or in the state that the read at nn leaves. -/
theorem wordLoads : Obligations.WordLoads := by
  intro s rp xy nn
  have pairs : ∀ q, s.rp q = s.rp q := fun _ => rfl
  have indices : ∀ q, s.index q = s.index q := fun _ => rfl
  have pairsAfterRead : ∀ q, (s.loadWord nn).2.rp q = s.rp q := fun q => by cases q <;> rfl
  have indicesAfterRead : ∀ q, (s.loadWord nn).2.index q = s.index q := fun q => by cases q <;> rfl
  have word : (s.loadWord nn).1 = wordAt s nn := congrArg Prod.fst (s.loadWord_eq nn)
  dsimp only
  rw [← word]
  exact ⟨⟨_, rfl, loads_setRp s s rp nn pairs⟩, ⟨_, rfl, loads_setIndex s s xy nn indices⟩,
    ⟨_, rfl, loads_setRp s (s.loadWord nn).2 .hl _ pairsAfterRead⟩,
    ⟨_, rfl, loads_setRp s (s.loadWord nn).2 rp _ pairsAfterRead⟩,
    ⟨_, rfl, loads_setIndex s (s.loadWord nn).2 xy _ indicesAfterRead⟩,
    ⟨_, rfl, loads_setRp s s .sp s.hl pairs⟩, ⟨_, rfl, loads_setRp s s .sp (s.index xy) pairs⟩⟩

/-! ## Stores, PUSH and POP (R245 to R247, R250 to R253) -/

/-- Only POP AF can count for Q (R252; 92_eei_decisions.md D17). -/
theorem exec_popRp2 (s : State) (rp : Rp2) :
    exec (.popRp2 rp) s = .next { (popped s).setRp2 rp (wordAt s s.sp) with
      qCur := s.qCur || (decide (rp = .af) && s.params.popAfSetsQ) } := by
  change execPopRp2 rp s = _
  rw [execPopRp2, pop16_eq_popped]
  cases rp <;> rfl

theorem exec_popRp2_of_ne_af (s : State) {rp : Rp2} (h : rp ≠ .af) :
    exec (.popRp2 rp) s = .next ((popped s).setRp2 rp (wordAt s s.sp)) := by
  rw [exec_popRp2, decide_eq_false h, Bool.false_and, Bool.or_false]
  cases rp <;> rfl

theorem exec_popXy (s : State) (xy : IndexReg) :
    exec (.popXy xy) s = .next ((popped s).setIndex xy (wordAt s s.sp)) := by
  change execPopXy xy s = _
  rw [execPopXy, pop16_eq_popped]

/-- Settles O39: stores and pushes write the two halves of the word that the statement computes; a POP is one register write
after the pop, of the two halves of the word popped. -/
theorem wordStoresPushAndPop : Obligations.WordStoresPushAndPop := by
  intro s rp xy nn
  dsimp only
  simp only [← push16_eq_pushed, byteOf_eq_lo8, byteOf_div_eq_hi8]
  exact ⟨rfl, rfl, rfl, rfl, rfl, rfl, rfl, rfl,
    exec_popRp2_of_ne_af s (rp := .bc) (by decide), exec_popRp2_of_ne_af s (rp := .de) (by decide),
    exec_popRp2_of_ne_af s (rp := .hl) (by decide), exec_popRp2 s .af, exec_popXy s .ix, exec_popXy s .iy⟩

end Sys2Proof.Machine
end

section
/-! SUPPORT. The exchanges and the block instructions in the words of the statements: the flags of a block instruction in integer
arithmetic, and a repeat form as its single form with or without the repeat step (42_exchange_block.md R270 to R296). -/

namespace Sys2Proof.Machine

open Claim

/-! ## Exchanges (R270 to R274) -/

/-- What an exchange of the bytes `hi` and `lo` with the word at SP leaves, before that word is written to their register. -/
def State.exchangedAtSp (s : State) (hi lo : Byte) : State :=
  { stored (stored (loaded (loaded s s.sp) (s.sp + 1#16)) (s.sp + 1#16) hi) s.sp lo with memptr := wordAt s s.sp }

theorem State.exchangeAtSp_pair (s : State) (hi lo : Byte) :
    s.exchangeAtSp (pair hi lo) = (wordAt s s.sp, s.exchangedAtSp hi lo) := by
  rw [State.exchangeAtSp, memRead16_eq_loaded, hi8_pair, lo8_pair]
  rfl

theorem State.exchangedAtSp_index (s : State) (hi lo : Byte) (q : IndexReg) :
    (s.exchangedAtSp hi lo).index q = s.index q := by
  cases q <;> dsimp only [State.index, State.exchangedAtSp, stored, loaded]

theorem State.exchangedAtSp_with_index (s : State) (hi lo : Byte) :
    { s.exchangedAtSp hi lo with ix := s.ix, iy := s.iy } = s.exchangedAtSp hi lo := by
  dsimp only [State.exchangedAtSp, stored, loaded]

theorem exec_exAtSpHl (s : State) :
    exec .exAtSpHl s = .next ((s.exchangedAtSp s.h s.l).setHL (wordAt s s.sp)) := by
  change execExAtSpHl s = _
  rw [execExAtSpHl, State.hl, State.exchangeAtSp_pair]

theorem exec_exAtSpXy (s : State) (xy : IndexReg) :
    exec (.exAtSpXy xy) s =
      .next ((s.exchangedAtSp (hi8 (s.index xy)) (lo8 (s.index xy))).setIndex xy (wordAt s s.sp)) := by
  have exchanged := s.exchangeAtSp_pair (hi8 (s.index xy)) (lo8 (s.index xy))
  rw [pair_hi8_lo8] at exchanged
  change execExAtSpXy xy s = _
  rw [execExAtSpXy, exchanged]

/-- Settles O40: EX (SP) writes one pair, or one index register, in the state that the exchange at SP leaves. -/
theorem exchanges : Obligations.Exchanges := by
  intro s xy
  obtain ⟨written, others, frame⟩ := loads_setIndex s (s.exchangedAtSp (hi8 (s.index xy)) (lo8 (s.index xy))) xy
    (wordAt s s.sp) (s.exchangedAtSp_index _ _)
  dsimp only
  simp only [byteOf_eq_lo8, byteOf_div_eq_hi8]
  exact ⟨rfl, rfl, rfl, exec_exAtSpHl s, _, exec_exAtSpXy s xy, written, others,
    frame.trans (s.exchangedAtSp_with_index _ _)⟩

/-! ## Flags of the block instructions in integer arithmetic -/

theorem sub_one_eq_zero_iff {w : Nat} (hw : 0 < w) (v : BitVec w) : v - 1#w = 0#w ↔ v.toNat = 1 := by
  rw [BitVec.sub_eq_iff_eq_add, BitVec.zero_add, ← BitVec.toNat_inj, BitVec.toNat_ofNat,
    Nat.mod_eq_of_lt (Nat.one_lt_two_pow hw.ne')]

theorem byteOf_sub_toNat (a b : Byte) : byteOf ((a.toNat : Int) - b.toNat) = a - b := by
  simpa [carryIn] using byteOf_sub a b false

theorem byteOf_sub_carry (a : Byte) (c : Bool) : byteOf ((a.toNat : Int) - c.toNat) = a - carryIn c := by
  simpa using byteOf_sub a 0#8 c

theorem half_sub8_no_borrow (a b : Byte) : (a ^^^ b ^^^ (a - b)).getLsbD 4 = decide (a.toNat % 16 < b.toNat % 16) := by
  simpa [carryIn] using half_sub8 a b false

/-- The flags of a block load from the counter before it runs (R281). -/
theorem blockLoadF_sub_one (a t f : Byte) (bc : Word) :
    blockLoadF a t f (bc - 1#16) =
      mkF (flagS f) (flagZ f) (bitOf ((t.toNat + a.toNat) % 256) 1) false (bitOf ((t.toNat + a.toNat) % 256) 3)
        (bc.toNat ≠ 1) false (flagC f) := by
  have sum : (t.toNat + a.toNat) % 256 = (t + a).toNat := (BitVec.toNat_add t a).symm
  rw [sum]
  simp only [blockLoadF, bitOf_toNat, ne_eq, sub_one_eq_zero_iff (w := 16) (by decide)]

/-- The flags of a block compare from the counter before it runs (R285). -/
theorem blockCompareF_sub_one (a t f : Byte) (bc : Word) :
    blockCompareF a t f (bc - 1#16) =
      mkF (128 ≤ (a - t).toNat) ((a - t).toNat = 0)
        (bitOf (a - t - carryIn (a.toNat % 16 < t.toNat % 16)).toNat 1) (a.toNat % 16 < t.toNat % 16)
        (bitOf (a - t - carryIn (a.toNat % 16 < t.toNat % 16)).toNat 3) (bc.toNat ≠ 1) true (flagC f) := by
  simp only [blockCompareF, bitOf_toNat, ne_eq, sub_one_eq_zero_iff (w := 16) (by decide), bit7_eq, eq_zero_iff (a - t),
    half_sub8_no_borrow]

theorem blockIoF_eq (b t : Byte) (k : Nat) : blockIoF b t k = blockIoFlags b t k := by
  simp only [blockIoF, blockIoFlags, bit7_eq, eq_zero_iff, bitOf_toNat, evenOnes_eq_parity]

/-! ## The single forms (R281, R282, R285, R286, R289, R290, R293, R294) -/

/-- The nested updates are reduced to one record before `rfl`, which would compare them field by field at every level. -/
theorem State.blockLoad_eq (s : State) (down : Bool) : s.blockLoad down = afterBlockLoad s down := by
  rw [afterBlockLoad, ← blockLoadF_sub_one, State.blockLoad]
  dsimp only [State.setBC, State.setDE, State.setHL, readHl, stored, State.readAtHl, State.memRead, State.memWrite,
    State.emit, State.hl, State.de, State.bc]
  rw [pair_hi8_lo8]
  rfl

theorem State.blockCompare_eq (s : State) (down : Bool) :
    s.blockCompare down = (s.a - s.peek s.hl, afterBlockCompare s down) := by
  have flags := congrArg (blockCompareF s.a (s.peek s.hl) s.f) (s.bc_setBC (s.bc - 1#16))
  rw [afterBlockCompare, byteOf_sub_toNat, byteOf_sub_carry, ← blockCompareF_sub_one, ← flags]
  rfl

/-- C plus or minus one, as the sum of INI and IND takes it (R289, R290). -/
theorem toNat_add_lo8_blockStep (c : Byte) (down : Bool) :
    (c + lo8 (blockStep down)).toNat = (if down then c.toNat + 255 else c.toNat + 1) % 256 := by
  cases down <;> exact BitVec.toNat_add c _

theorem State.blockIn_eq (s : State) (down : Bool) : s.blockIn down = afterBlockIn s down := by
  rw [State.blockIn, portRead_eq_afterInput, afterBlockIn, ← toNat_add_lo8_blockStep, ← blockIoF_eq]
  rfl

theorem State.blockOut_eq (s : State) (down : Bool) : s.blockOut down = afterBlockOut s down := by
  rw [afterBlockOut, wordOf_mul_add, ← toNat_lo8, ← blockIoF_eq]
  rfl

/-- Settles O41: each form is its direction of one of the four operations. -/
theorem blockInstructionsSingleForms : Obligations.BlockInstructionsSingleForms := by
  intro s
  have compare := fun down => congrArg Prod.snd (s.blockCompare_eq down)
  exact ⟨next_congr (s.blockLoad_eq false), next_congr (s.blockLoad_eq true), next_congr (compare false),
    next_congr (compare true), next_congr (s.blockIn_eq false), next_congr (s.blockIn_eq true),
    next_congr (s.blockOut_eq false), next_congr (s.blockOut_eq true)⟩

/-! ## The repeat forms (R280, R283, R284, R287, R288, R291, R292, R295, R296) -/

theorem yxFromPC_eq (f : Byte) (pc : Word) :
    yxFromPC f pc =
      mkF (flagS f) (flagZ f) (bitOf pc.toNat 13) (flagH f) (bitOf pc.toNat 11) (flagPV f) (flagN f) (flagC f) := by
  simp only [yxFromPC, bitOf, getLsbD_eq_div]

/-- The repeat step is made exactly where the instruction is not done (R280). -/
theorem State.repeatUnless_eq (t : State) {done : Bool} {p : Prop} [Decidable p] (h : done = true ↔ p) :
    t.repeatUnless done = if p then t else repeated t := by
  split
  next hp => rw [h.mpr hp, State.repeatUnless, if_pos rfl]
  next hp =>
    rw [State.repeatUnless, if_neg (mt h.mp hp), repeated, ← yxFromPC_eq]

theorem State.blockLoadRepeat_eq (s : State) (down : Bool) :
    s.blockLoadRepeat down = if s.bc.toNat = 1 then afterBlockLoad s down else repeated (afterBlockLoad s down) := by
  have counter : (afterBlockLoad s down).bc = s.bc - 1#16 := s.bc_setBC _
  rw [State.blockLoadRepeat, State.blockLoad_eq, counter]
  exact State.repeatUnless_eq _ (decide_eq_true_iff.trans (sub_one_eq_zero_iff (by decide) s.bc))

theorem State.blockCompareRepeat_eq (s : State) (down : Bool) :
    s.blockCompareRepeat down =
      if s.bc.toNat = 1 ∨ s.a = s.peek s.hl then afterBlockCompare s down else repeated (afterBlockCompare s down) := by
  have counter : (afterBlockCompare s down).bc = s.bc - 1#16 := s.bc_setBC _
  rw [State.blockCompareRepeat, State.blockCompare_eq]
  dsimp only
  refine State.repeatUnless_eq _ ?_
  rw [counter, Bool.or_eq_true, decide_eq_true_iff, decide_eq_true_iff, sub_one_eq_zero_iff (by decide)]
  exact or_congr_right sub_eq_zero

theorem State.blockInRepeat_eq (s : State) (down : Bool) :
    s.blockInRepeat down = if s.b.toNat = 1 then afterBlockIn s down else repeated (afterBlockIn s down) := by
  rw [State.blockInRepeat, State.blockIn_eq]
  exact State.repeatUnless_eq _ (decide_eq_true_iff.trans (sub_one_eq_zero_iff (by decide) s.b))

theorem State.blockOutRepeat_eq (s : State) (down : Bool) :
    s.blockOutRepeat down = if s.b.toNat = 1 then afterBlockOut s down else repeated (afterBlockOut s down) := by
  rw [State.blockOutRepeat, State.blockOut_eq]
  exact State.repeatUnless_eq _ (decide_eq_true_iff.trans (sub_one_eq_zero_iff (by decide) s.b))

/-- Settles O42: the form of either direction is the repeating operation, whose test decides between the two states. -/
theorem blockInstructionsRepeatForms : Obligations.BlockInstructionsRepeatForms := by
  intro s down
  have load : exec (if down then .lddr else .ldir) s = .next (s.blockLoadRepeat down) := by cases down <;> rfl
  have compare : exec (if down then .cpdr else .cpir) s = .next (s.blockCompareRepeat down) := by cases down <;> rfl
  have input : exec (if down then .indr else .inir) s = .next (s.blockInRepeat down) := by cases down <;> rfl
  have output : exec (if down then .otdr else .otir) s = .next (s.blockOutRepeat down) := by cases down <;> rfl
  dsimp only
  rw [load, compare, input, output, State.blockLoadRepeat_eq, State.blockCompareRepeat_eq, State.blockInRepeat_eq,
    State.blockOutRepeat_eq]
  exact ⟨fun h => next_congr (if_pos h), fun h => next_congr (if_neg h), fun h => next_congr (if_pos h),
    fun hc ha => next_congr (if_neg (not_or_intro hc ha)), fun h => next_congr (if_pos h),
    fun h => next_congr (if_neg h), fun h => next_congr (if_pos h), fun h => next_congr (if_neg h)⟩

end Sys2Proof.Machine
end

section
/-! SUPPORT. Addition, subtraction and comparison on A, and the increments and decrements of a byte, in integer arithmetic
(43_alu8.md R310 to R312, R316, R317, R320 to R339, R355 to R367). -/

namespace Sys2Proof.Machine

open Claim

/-! ## Addition, subtraction and comparison on A (R310 to R312) -/

theorem byteOf_add (a b : Byte) (c : Bool) : byteOf (a.toNat + b.toNat + c.toNat : Nat) = a + b + carryIn c := by
  apply BitVec.eq_of_toNat_eq
  rw [toNat_byteOf, toNat_add_carry8]

/-- The sum and its flags in integer arithmetic (R310). -/
theorem setAF8_add8 (s : State) (v : Byte) (c : Bool) : s.setAF8 (add8 s.a v c) = afterAdd s v c := by
  simp only [State.setAF8, add8, afterAdd, byteOf_add, half_add8, overflow_add8, overflows8, Bool.decide_or]
  simp only [bit7_eq, eq_zero_iff, bitOf_toNat]

/-- A compare writes the flags of the subtraction, but for Y and X of the operand (R312; 90_conflicts.md C13). -/
theorem State.aluCp_eq (s : State) (v : Byte) : s.aluCp v = afterCp s v := by
  have flags : (sub8 s.a v false).f = (afterSub s v false).f := congrArg State.f (setAF8_sub8 s v false)
  rw [State.aluCp, cp8F, flags]
  simp only [afterSub, afterCp, flagS_mkF, flagZ_mkF, flagH_mkF, flagPV_mkF, flagN_mkF, flagC_mkF, bitOf_toNat,
    Bool.toNat_false, Nat.cast_zero, sub_zero, Nat.add_zero]

/-- Settles O43: in each form the sum with A after the operand's read. -/
theorem addAndAdcResults : Obligations.AddAndAdcResults := by
  intro s r n d xy half
  rw [readXy_eq, addr_eq_ea, halfByte_eq_half]
  have sum := fun (u : State) (v : Byte) (c : Bool) => next_congr (setAF8_add8 u v c)
  exact ⟨sum s _ false, sum s n false, sum (readHl s) _ false, sum (s.readAtXyD xy d).2 _ false, sum s _ false,
    sum s _ _, sum s n _, sum (readHl s) _ _, sum (s.readAtXyD xy d).2 _ _, sum s _ _⟩

/-- Settles O44: in each form the difference with A, or only its flags, after the operand's read. -/
theorem subtractAndCompareResults : Obligations.SubtractAndCompareResults := by
  intro s r n d xy half
  rw [readXy_eq, addr_eq_ea, halfByte_eq_half]
  have difference := fun (u : State) (v : Byte) (c : Bool) => next_congr (setAF8_sub8 u v c)
  have compare := fun (u : State) (v : Byte) => next_congr (u.aluCp_eq v)
  exact ⟨difference s _ false, difference s n false, difference (readHl s) _ false,
    difference (s.readAtXyD xy d).2 _ false, difference s _ false,
    difference s _ _, difference s n _, difference (readHl s) _ _, difference (s.readAtXyD xy d).2 _ _, difference s _ _,
    compare s _, compare s n, compare (readHl s) _, compare (s.readAtXyD xy d).2 _, compare s _⟩

/-! ## Increment and decrement (R316, R317) -/

theorem overflow_add_one : ∀ v : Byte, decide (v = 0x7F#8) = overflows8 (v.toInt + 1) := by decide

theorem overflow_sub_one : ∀ v : Byte, decide (v = 0x80#8) = overflows8 (v.toInt - 1) := by decide

theorem toNat_low_digit (v : Byte) : (v.extractLsb' 0 4).toNat = v.toNat % 16 := rfl

theorem low_digit_eq_fifteen_iff (v : Byte) : v.extractLsb' 0 4 = 0xF#4 ↔ 15 < v.toNat % 16 + 1 := by
  rw [← BitVec.toNat_inj, toNat_low_digit]
  change v.toNat % 16 = 15 ↔ _
  omega

theorem low_digit_eq_zero_iff (v : Byte) : v.extractLsb' 0 4 = 0x0#4 ↔ v.toNat % 16 < 1 := by
  rw [eq_zero_iff, toNat_low_digit, Nat.lt_one_iff]

theorem byteOf_add_one (v : Byte) : byteOf (v.toNat + 1) = v + 1#8 := by
  simpa [carryIn] using byteOf_add v 1#8 false

/-- The byte one higher and its flags in integer arithmetic (R316). -/
theorem inc8_eq (v f : Byte) : inc8 v f = { val := byteOf (v.toNat + 1), f := incFlags v f } := by
  simp only [inc8, incFlags, byteOf_add_one, bit7_eq, eq_zero_iff, bitOf_toNat, low_digit_eq_fifteen_iff,
    overflow_add_one]

/-- The byte one lower and its flags in integer arithmetic (R317). -/
theorem dec8_eq (v f : Byte) : dec8 v f = { val := byteOf ((v.toNat : Int) - 1), f := decFlags v f } := by
  have lower : byteOf ((v.toNat : Int) - 1) = v - 1#8 := byteOf_sub_toNat v 1#8
  simp only [dec8, decFlags, lower, bit7_eq, eq_zero_iff (v - 1#8), bitOf_toNat, low_digit_eq_zero_iff, overflow_sub_one]

theorem State.setFQ_setReg8 (s : State) (r : Reg8) (v f : Byte) :
    (s.setReg8 r v).setFQ f = (s.setFQ f).setReg8 r v := by
  cases r <;> rfl

theorem State.setFQ_setHalf (s : State) (xy : IndexReg) (half : Half) (v f : Byte) :
    (s.setHalf xy half v).setFQ f = (s.setFQ f).setHalf xy half v := by
  cases xy <;> cases half <;> rfl

/-- A result written back to its register with the flags is what the statement asks of INC r and DEC r. -/
theorem loads_setReg8_setFQ (s : State) (r : Reg8) (v f : Byte) :
    ((s.setReg8 r v).setFQ f).reg8 r = v ∧ (∀ q, q ≠ r → ((s.setReg8 r v).setFQ f).reg8 q = s.reg8 q) ∧
      { (s.setReg8 r v).setFQ f with a := s.a, b := s.b, c := s.c, d := s.d, e := s.e, h := s.h, l := s.l } =
        { s with f := f, qCur := true } := by
  rw [State.setFQ_setReg8]
  exact loads_setReg8 s (s.setFQ f) r v fun q => by cases q <;> rfl

/-- A result written back to its half with the flags is what the statement asks of INC and DEC of XYH and XYL. -/
theorem sets_setHalf_setFQ (s : State) (xy : IndexReg) (half : Half) (v f : Byte) :
    halfByte ((s.setHalf xy half v).setFQ f) xy half = v ∧
      (∀ q k, (q ≠ xy ∨ k ≠ half) → halfByte ((s.setHalf xy half v).setFQ f) q k = halfByte s q k) ∧
      { (s.setHalf xy half v).setFQ f with ix := s.ix, iy := s.iy } = { s with f := f, qCur := true } := by
  rw [State.setFQ_setHalf]
  obtain ⟨written, others, frame⟩ := sets_setHalf (s.setFQ f) xy half v
  exact ⟨written, fun q k h => (others q k h).trans (by cases q <;> rfl), frame⟩

/-- Settles O46: the byte and flags of `inc8_eq` and `dec8_eq`, written back where the operand came from. -/
theorem incrementAndDecrement8 : Obligations.IncrementAndDecrement8 := by
  intro s r d xy half
  have up := fun v => congrArg Out8.val (inc8_eq v s.f)
  have upF := fun v => congrArg Out8.f (inc8_eq v s.f)
  have down := fun v => congrArg Out8.val (dec8_eq v s.f)
  have downF := fun v => congrArg Out8.f (dec8_eq v s.f)
  dsimp only at up upF down downF ⊢
  simp only [← up, ← upF, ← down, ← downF, readXy_eq, addr_eq_ea, halfByte_eq_half s xy half]
  exact ⟨⟨_, rfl, loads_setReg8_setFQ s r _ _⟩, ⟨_, rfl, loads_setReg8_setFQ s r _ _⟩, rfl, rfl, rfl, rfl,
    ⟨_, rfl, sets_setHalf_setFQ s xy half _ _⟩, ⟨_, rfl, sets_setHalf_setFQ s xy half _ _⟩⟩

end Sys2Proof.Machine
end

section
/-! SUPPORT. CPU control (44_general_control.md R385 to R392), and a halted core: without breakpoints it stands at its HALT byte,
and with interrupts disabled it runs that byte for ever (R386; 60_exceptions.md R619, R636). -/

namespace Sys2Proof.Machine

open Claim

/-- Settles O50: each meaning is the update of the fields it names. -/
theorem cpuControlResults : Obligations.CpuControlResults :=
  fun _ _ _ _ => ⟨rfl, rfl, rfl, rfl, rfl, rfl, rfl, rfl⟩

/-! ## Running the HALT byte (R386) -/

/-- The instruction of the byte at PC, where no breakpoint is consulted, and the state it starts from (R130). -/
theorem State.fetchInstr_of_no_breakpoint {s : State} (h : s.pfx = .noPfx → s.bp.contains s.pc = false) :
    s.fetchInstr =
      let i := decodeAt s.pfx (s.peek s.pc) (s.peek (s.pc + 1#16)) (s.peek (s.pc + 2#16))
      (i, fetched s i.operandBytes) :=
  State.fetchInstr_of_substitute (State.substitute_of_no_breakpoint _ _ h)

theorem State.fetchInstr_of_halt {s : State} (hp : s.pfx = .noPfx) (hb : s.bp.contains s.pc = false)
    (hop : s.peek s.pc = 0x76#8) : s.fetchInstr = (.halt, fetched s 0) := by
  rw [State.fetchInstr_of_no_breakpoint fun _ => hb, hp, hop]
  rfl

/-- What a run of the HALT byte at PC leaves before the boundary: PC back on the byte. -/
def State.halting (s : State) : State := { fetched s 0 with pc := s.pc, halted := true }

theorem exec_halt_fetched (s : State) : exec .halt (fetched s 0) = .next s.halting := by
  have back : s.pc + 1#16 + BitVec.ofNat 16 0 - 1#16 = s.pc := by simp
  rw [State.halting, ← back]
  rfl

theorem State.sampleInterrupts_of_masked {s : State} (hn : s.nmiPending = false) (h1 : s.iff1 = false) :
    s.sampleInterrupts = .next s :=
  s.sampleInterrupts_of_none (by simp [hn]) (by simp [h1])

/-! ## Halted for good (R619, R636) -/

/-- The core stands halted at a HALT byte that no breakpoint replaces, and no interrupt can wake it. -/
structure State.StuckAtHalt (s : State) : Prop where
  halted : s.halted = true
  iff1 : s.iff1 = false
  nmiPending : s.nmiPending = false
  pfx : s.pfx = .noPfx
  noBreakpoint : s.bp.contains s.pc = false
  haltByte : s.peek s.pc = 0x76#8

/-- The state after `k` runs of the HALT byte, `hist` the history they leave. -/
def State.afterHaltSteps (s : State) (k : Nat) (hist : List Event) : State :=
  { s with
    r7 := s.r7 + BitVec.ofNat 7 k
    pendingEI := decide (k = 0) && s.pendingEI, qLast := decide (k = 0) && s.qLast, qCur := decide (k = 0) && s.qCur
    history := hist }

theorem State.afterHaltSteps_zero (s : State) : s.afterHaltSteps 0 s.history = s := by
  simp [State.afterHaltSteps]

theorem State.afterHaltSteps_succ (s : State) (k : Nat) (hist hist' : List Event) :
    (s.afterHaltSteps 1 hist).afterHaltSteps k hist' = s.afterHaltSteps (k + 1) hist' := by
  have r7 : s.r7 + BitVec.ofNat 7 1 + BitVec.ofNat 7 k = s.r7 + BitVec.ofNat 7 (k + 1) := by
    rw [BitVec.add_assoc, ← BitVec.ofNat_add, Nat.add_comm 1 k]
  simp [State.afterHaltSteps, r7]

theorem State.StuckAtHalt.afterHaltSteps {s : State} (h : s.StuckAtHalt) (k : Nat) (hist : List Event) :
    (s.afterHaltSteps k hist).StuckAtHalt :=
  ⟨h.halted, h.iff1, h.nmiPending, h.pfx, h.noBreakpoint, h.haltByte⟩

theorem State.StuckAtHalt.boundary_halting {s : State} (h : s.StuckAtHalt) :
    s.halting.boundary = s.afterHaltSteps 1 s.halting.boundary.history := by
  rw [State.boundary_eq]
  simp only [State.afterHaltSteps, State.halting, fetched, h.pfx, h.halted]
  rfl

theorem State.StuckAtHalt.step {s : State} (h : s.StuckAtHalt) : ∃ hist, step s = .next (s.afterHaltSteps 1 hist) := by
  refine ⟨s.halting.boundary.history, ?_⟩
  have masked := h.afterHaltSteps 1 s.halting.boundary.history
  rw [step_eq_finish (State.fetchInstr_of_halt h.pfx h.noBreakpoint h.haltByte), exec_halt_fetched,
    ← State.endStep_eq_finish, State.endStep_of_boundary _ rfl, h.boundary_halting]
  exact State.sampleInterrupts_of_masked masked.nmiPending masked.iff1

theorem run_succ_of_next {M : Host.Core} {s t : M.State} (h : M.step s = .next t) (k : Nat) :
    M.run (k + 1) s = M.run k t := by
  rw [Host.Core.run, h]

theorem State.StuckAtHalt.run {s : State} (h : s.StuckAtHalt) (k : Nat) :
    ∃ hist, Sys2Proof.core.run k s = .next (s.afterHaltSteps k hist) := by
  induction k generalizing s with
  | zero => exact ⟨s.history, congrArg Host.Outcome.next s.afterHaltSteps_zero.symm⟩
  | succ k ih =>
    obtain ⟨hist, first⟩ := h.step
    obtain ⟨hist', rest⟩ := ih (h.afterHaltSteps 1 hist)
    refine ⟨hist', ?_⟩
    calc Sys2Proof.core.run (k + 1) s
        = Sys2Proof.core.run k (s.afterHaltSteps 1 hist) := run_succ_of_next (M := Sys2Proof.core) first k
      _ = .next (s.afterHaltSteps (k + 1) hist') := rest.trans (next_congr (s.afterHaltSteps_succ k hist hist'))

/-- Settles O16: each step runs the HALT byte at PC again, and no interrupt is accepted after it. -/
theorem haltedForGoodStaysHalted : Obligations.HaltedForGoodStaysHalted := by
  intro s k hh h1 hn hp hb hop
  obtain ⟨hist, e⟩ := State.StuckAtHalt.run ⟨hh, h1, hn, hp, hb, hop⟩ k
  exact ⟨_, e, rfl⟩

/-! ## Standing at the HALT byte (R386; 92_eei_decisions.md D23) -/

/-- With no breakpoint set, a halted core has no prefix pending and a HALT byte at PC. -/
structure State.StandsAtHalt (s : State) : Prop where
  bp : s.bp = []
  haltByte : s.halted = true → s.pfx = .noPfx ∧ s.peek s.pc = 0x76#8

/-- The fallback of the HALT byte is HALT, where no breakpoint stands at the byte (R137). -/
theorem exec_fallbackXy_halt (xy : IndexReg) {s : State} (hb : s.bp.contains (s.pc - 1#16) = false) :
    exec (.fallbackXy xy 0x76#8) s = exec .halt s := by
  have pc : s.pc + BitVec.ofNat 16 0 = s.pc := BitVec.add_zero s.pc
  refine (exec_fallbackXy_of_consultBp (s.consultBp_of_not_mem _ _ hb)).trans (congrArg (exec .halt) ?_)
  change { s with pc := s.pc + BitVec.ofNat 16 0 } = s
  rw [pc]

/-- The HALT byte selects HALT or its fallback, and no other byte selects either. -/
theorem eq_haltByte_of_decodeAt {p : Pfx} {op o1 o2 : Byte}
    (h : decodeAt p op o1 o2 = .halt ∨ ∃ xy, decodeAt p op o1 o2 = .fallbackXy xy 0x76#8) : op = 0x76#8 := by
  obtain ⟨_, spelling⟩ := spelledBy_decodeAt p op o1 o2
  have last := congrArg List.getLast? spelling
  obtain e | ⟨xy, e⟩ := h
  · simpa [e, encode, Instr.operandBytes, eq_comm] using last
  · simpa [e, encode, Instr.operandBytes, eq_comm] using last

theorem isFallback_of_decodeAt {p : Pfx} {op o1 o2 op' : Byte} {xy : IndexReg}
    (h : decodeAt p op o1 o2 = .fallbackXy xy op') : isFallback op' = true := by
  obtain ⟨wf, _⟩ := spelledBy_decodeAt p op o1 o2
  rwa [h] at wf

/-- An entry of the tables halts the core only where it is HALT or HALT's fallback. -/
theorem halted_or_halt_of_exec {p : Pfx} {op o1 o2 : Byte} {s t : State} (hb : s.bp.contains (s.pc - 1#16) = false)
    (h : exec (decodeAt p op o1 o2) s = .next t) :
    t.halted = s.halted ∨ decodeAt p op o1 o2 = .halt ∨ ∃ xy, decodeAt p op o1 o2 = .fallbackXy xy 0x76#8 := by
  obtain ⟨direct, fallback⟩ := interruptRegistersHaveTheirWriters
  by_cases hf : ∃ xy op', decodeAt p op o1 o2 = .fallbackXy xy op'
  · obtain ⟨xy, op', e⟩ := hf
    obtain ⟨_, _, _, halted, _⟩ := fallback xy op' s t (e ▸ h) hb (isFallback_of_decodeAt e)
    by_cases hop : op' = 0x76#8
    · exact .inr (.inr ⟨xy, hop ▸ e⟩)
    · exact .inl (halted hop)
  · obtain ⟨_, _, _, halted, _⟩ := direct _ s t h fun xy op' e => hf ⟨xy, op', e⟩
    by_cases hh : decodeAt p op o1 o2 = .halt
    · exact .inr (.inl hh)
    · exact .inl (halted hh)

/-- An instruction that leaves the core halted is HALT at PC: the core was at the byte, or has just run it. -/
theorem State.StandsAtHalt.exec_eq_halting {s u : State} (h : s.StandsAtHalt)
    (e : exec s.fetchInstr.1 s.fetchInstr.2 = .next u) (hu : u.halted = true) :
    u = s.halting ∧ s.peek s.pc = 0x76#8 := by
  have free : ∀ a, s.bp.contains a = false := fun a => by rw [h.bp]; rfl
  rw [State.fetchInstr_of_no_breakpoint fun _ => free s.pc] at e
  dsimp only at e
  generalize s.peek (s.pc + 1#16) = o1, s.peek (s.pc + 2#16) = o2 at e
  have row : decodeAt s.pfx (s.peek s.pc) o1 o2 = .halt ∨
      ∃ xy, decodeAt s.pfx (s.peek s.pc) o1 o2 = .fallbackXy xy 0x76#8 := by
    obtain kept | row := halted_or_halt_of_exec (s := fetched s _) (free _) e
    · obtain ⟨hp, hop⟩ := h.haltByte (kept.symm.trans hu)
      rw [hp, hop]
      exact .inl rfl
    · exact row
  refine ⟨?_, eq_haltByte_of_decodeAt row⟩
  have ran : exec .halt (fetched s 0) = .next u := by
    obtain i | ⟨xy, i⟩ := row
    · rwa [i] at e
    · rw [i] at e
      exact (exec_fallbackXy_halt xy (s := fetched s 0) (free _)).symm.trans e
  rw [exec_halt_fetched] at ran
  cases ran
  rfl

/-- An instruction leaves the breakpoint set as it is. -/
theorem bp_of_exec {i : Instr} {s t : State} (h : exec i s = .next t) : t.bp = s.bp := by
  obtain ⟨j, k, _⟩ := exists_execFacts h
  exact (congrArg Control.bp k.control).trans (controlAfter_bp j s)

theorem State.StandsAtHalt.exec {s u : State} (h : s.StandsAtHalt)
    (e : exec s.fetchInstr.1 s.fetchInstr.2 = .next u) : u.StandsAtHalt := by
  obtain ⟨hist, ef⟩ := s.fetchInstr_snd
  refine ⟨?_, fun hu => ?_⟩
  · rw [bp_of_exec e, ef]
    exact h.bp
  · obtain ⟨rfl, haltByte⟩ := h.exec_eq_halting e hu
    exact ⟨rfl, haltByte⟩

/-- The end of a step moves PC only where it accepts an interrupt, which wakes the core. -/
theorem State.StandsAtHalt.endStep {s t : State} (h : s.StandsAtHalt) (e : s.endStep = .next t) : t.StandsAtHalt := by
  by_cases hp : s.pfx = .noPfx
  · rw [s.endStep_of_boundary hp, State.boundary_eq] at e
    obtain ⟨_, k⟩ | ⟨_, _, _, k⟩ | ⟨_, rfl⟩ := State.sampleInterrupts_next e
    · rw [k.frame]
      exact ⟨h.bp, Bool.noConfusion⟩
    · rw [k.frame]
      exact ⟨h.bp, Bool.noConfusion⟩
    · exact ⟨h.bp, h.haltByte⟩
  · rw [s.endStep_of_pending hp] at e
    cases e
    exact h

/-- Settles O21: the instruction keeps it, and so does the end of the step. -/
theorem haltedCoreStandsAtItsHaltByte : Obligations.HaltedCoreStandsAtItsHaltByte := by
  intro s t hb hh e
  obtain ⟨u, eu, et⟩ := step_next e
  obtain ⟨bp, haltByte⟩ := (State.StandsAtHalt.exec ⟨hb, hh⟩ eu).endStep et
  exact ⟨bp, haltByte⟩

end Sys2Proof.Machine
end

section
/-! SUPPORT. Decimal adjustment (44_general_control.md R380): DAA in integer arithmetic, and after a sum or a difference of two
BCD bytes. -/

namespace Sys2Proof.Machine

open Claim

/-! ## The correction (R380) -/

/-- DAA corrects the low digit. -/
abbrev State.LowCorrected (s : State) : Prop := flagH s.f = true ∨ 9 < s.a.toNat % 16

/-- DAA corrects the high digit, and leaves C set. -/
abbrev State.HighCorrected (s : State) : Prop := flagC s.f = true ∨ 0x99 < s.a.toNat

/-- What DAA adds to A, or subtracts from it. -/
def State.daaFix (s : State) : Int := (if s.LowCorrected then 6 else 0) + if s.HighCorrected then 0x60 else 0

/-- The A that DAA leaves. -/
def State.daaA (s : State) : Byte :=
  byteOf (if flagN s.f = true then (s.a.toNat : Int) - s.daaFix else s.a.toNat + s.daaFix)

/-- The two parts of the correction share no bit, so their union is their sum. -/
theorem toNat_correction (low high : Bool) :
    let six : Byte := if low then 0x06#8 else 0x00#8
    ((if high then six ||| 0x60#8 else six).toNat : Int) = (if low then 6 else 0) + if high then 0x60 else 0 := by
  cases low <;> cases high <;> rfl

theorem parityFlags_eq_mkF (r : Byte) (h n c : Bool) :
    parityFlags r h n c = mkF (r.getLsbD 7) (r = 0#8) (r.getLsbD 5) h (r.getLsbD 3) (parity r) n c := by
  simp only [parityFlags, bit7_eq, eq_zero_iff, bitOf_toNat, evenOnes_eq_parity]

theorem byteOf_add_toNat (a b : Byte) : byteOf ((a.toNat : Int) + b.toNat) = a + b := by
  simpa [carryIn] using byteOf_add a b false

theorem daa8_val (s : State) : (daa8 s.a s.f).val = s.daaA := by
  have fix := toNat_correction (decide s.LowCorrected) (decide s.HighCorrected)
  simp only [decide_eq_true_eq] at fix
  simp only [daa8, toNat_low_digit, Bool.or_eq_true, decide_eq_true_eq, State.daaA, State.daaFix]
  rw [← fix]
  split
  · exact (byteOf_sub_toNat _ _).symm
  · exact (byteOf_add_toNat _ _).symm

/-- DAA in integer arithmetic. -/
theorem setAF8_daa8 (s : State) :
    s.setAF8 (daa8 s.a s.f) = { s with
      a := s.daaA
      f := parityFlags s.daaA
        (if flagN s.f = true then flagH s.f && decide (s.a.toNat % 16 < 6) else decide (9 < s.a.toNat % 16))
        (flagN s.f) (decide s.HighCorrected)
      qCur := true } := by
  rw [parityFlags_eq_mkF, ← daa8_val]
  simp [State.setAF8, daa8]

/-- Settles O48: the correction's two parts, and the flags of the byte it leaves. -/
theorem decimalAdjustResult : Obligations.DecimalAdjustResult := fun s => next_congr (setAF8_daa8 s)

/-! ## BCD bytes -/

/-- The byte of a two-digit number, one digit to a nibble. -/
def bcd (n : Nat) : Byte := BitVec.ofNat 8 (n / 10 * 16 + n % 10)

theorem toNat_bcd {n : Nat} (h : n < 100) : (bcd n).toNat = n / 10 * 16 + n % 10 := by
  rw [bcd, BitVec.toNat_ofNat]
  omega

theorem toNat_byteOf_int (n : Int) : (byteOf n).toNat = (n % 256).toNat := BitVec.toNat_ofInt ..

/-- A sum of two bytes up to 0x99 is above 0x99 where it carries out of the byte, or where the byte it leaves is. -/
theorem carry_or_above_ninety_nine {n : Nat} (h : n ≤ 0x99 + 0x99) : 255 < n ∨ 0x99 < n % 256 ↔ 0x99 < n := by
  omega

/-- A difference of two bytes up to 0x99 leaves a byte above 0x99 only where it borrows. -/
theorem borrow_or_above_ninety_nine {a b : Nat} (ha : a ≤ 0x99) (hb : b ≤ 0x99) :
    a < b ∨ 0x99 < (a + 256 - b) % 256 ↔ a < b := by
  omega

section
variable {s : State} {x y : Nat} (hx : x < 100) (hy : y < 100) (ha : s.a = bcd x)
include hx hy ha

theorem toNat_afterAdd_bcd :
    (afterAdd s (bcd y) false).a.toNat = (x / 10 * 16 + x % 10 + (y / 10 * 16 + y % 10)) % 256 := by
  dsimp only [afterAdd]
  rw [toNat_byteOf, ha, toNat_bcd hx, toNat_bcd hy]
  rfl

theorem toNat_afterSub_bcd :
    (afterSub s (bcd y) false).a.toNat = (x / 10 * 16 + x % 10 + 256 - (y / 10 * 16 + y % 10)) % 256 := by
  dsimp only [afterSub]
  rw [toNat_byteOf_int, ha, toNat_bcd hx, toNat_bcd hy, Bool.toNat_false]
  omega

/-- After a sum the low digit is corrected where the digits carry. -/
theorem lowCorrected_afterAdd : (afterAdd s (bcd y) false).LowCorrected ↔ 9 < x % 10 + y % 10 := by
  rw [State.LowCorrected, toNat_afterAdd_bcd hx hy ha]
  simp only [afterAdd, flagH_mkF, ha, toNat_bcd hx, toNat_bcd hy, decide_eq_true_eq, Bool.toNat_false]
  omega

theorem highCorrected_afterAdd : (afterAdd s (bcd y) false).HighCorrected ↔ 100 ≤ x + y := by
  rw [State.HighCorrected, toNat_afterAdd_bcd hx hy ha]
  simp only [afterAdd, flagC_mkF, ha, toNat_bcd hx, toNat_bcd hy, decide_eq_true_eq, Bool.toNat_false, Nat.add_zero]
  rw [carry_or_above_ninety_nine (by omega)]
  omega

/-- After a difference the low digit is corrected where the digits borrow. -/
theorem lowCorrected_afterSub : (afterSub s (bcd y) false).LowCorrected ↔ x % 10 < y % 10 := by
  rw [State.LowCorrected, toNat_afterSub_bcd hx hy ha]
  simp only [afterSub, flagH_mkF, ha, toNat_bcd hx, toNat_bcd hy, decide_eq_true_eq, Bool.toNat_false]
  omega

theorem highCorrected_afterSub : (afterSub s (bcd y) false).HighCorrected ↔ x < y := by
  rw [State.HighCorrected, toNat_afterSub_bcd hx hy ha]
  simp only [afterSub, flagC_mkF, ha, toNat_bcd hx, toNat_bcd hy, decide_eq_true_eq, Bool.toNat_false, Nat.add_zero]
  rw [borrow_or_above_ninety_nine (by omega) (by omega)]
  omega

theorem daaA_afterAdd : (afterAdd s (bcd y) false).daaA = bcd ((x + y) % 100) := by
  have hN : flagN (afterAdd s (bcd y) false).f = false := flagN_mkF ..
  apply BitVec.eq_of_toNat_eq
  rw [State.daaA, hN, toNat_byteOf_int, toNat_afterAdd_bcd hx hy ha, toNat_bcd (Nat.mod_lt _ (by decide)), State.daaFix]
  simp only [lowCorrected_afterAdd hx hy ha, highCorrected_afterAdd hx hy ha, Bool.false_eq_true, if_false]
  split <;> split <;> omega

theorem daaA_afterSub : (afterSub s (bcd y) false).daaA = bcd ((x + 100 - y) % 100) := by
  have hN : flagN (afterSub s (bcd y) false).f = true := flagN_mkF ..
  apply BitVec.eq_of_toNat_eq
  rw [State.daaA, hN, toNat_byteOf_int, toNat_afterSub_bcd hx hy ha, toNat_bcd (Nat.mod_lt _ (by decide)), State.daaFix]
  simp only [lowCorrected_afterSub hx hy ha, highCorrected_afterSub hx hy ha, if_true]
  split <;> split <;> omega

end

/-- Settles O47: DAA corrects a digit where the decimal digits carry or borrow, and C is set where the high one does. -/
theorem decimalAdjustIsBcdCorrect : Obligations.DecimalAdjustIsBcdCorrect := by
  intro s x y hx hy digits ha
  refine ⟨⟨_, _, next_congr (setAF8_add8 s (digits y) false), decimalAdjustResult _, daaA_afterAdd hx hy ha, ?_, ?_⟩,
    _, _, next_congr (setAF8_sub8 s (digits y) false), decimalAdjustResult _, daaA_afterSub hx hy ha, ?_, ?_⟩
  · exact (flagC_mkF ..).trans (decide_eq_decide.mpr (highCorrected_afterAdd hx hy ha))
  · exact (flagN_mkF ..).trans (flagN_mkF ..)
  · exact (flagC_mkF ..).trans (decide_eq_decide.mpr (highCorrected_afterSub hx hy ha))
  · exact (flagN_mkF ..).trans (flagN_mkF ..)

end Sys2Proof.Machine
end

section
/-! SUPPORT. The 16-bit sums and differences with their flags, and the increments and decrements of a word, in integer arithmetic
(45_alu16.md R410 to R420). -/

namespace Sys2Proof.Machine

open Claim

/-! ## Words in integer arithmetic (00_scope.md R10) -/

theorem wordOf_add_carry (a b : Word) (c : Bool) :
    wordOf ((a.toNat : Int) + b.toNat + c.toNat) = a + b + (carryIn c).setWidth 16 := by
  apply BitVec.eq_of_toNat_eq
  rw [toNat_add_carry16]
  exact toNat_wordOf (a.toNat + b.toNat + c.toNat)

theorem wordOf_sub_borrow (a b : Word) (c : Bool) :
    wordOf ((a.toNat : Int) - b.toNat - c.toNat) = a - b - (carryIn c).setWidth 16 := by
  apply BitVec.eq_of_toNat_eq
  have := a.isLt
  have := b.isLt
  have := Bool.toNat_le c
  rw [toNat_sub_carry16, wordOf, BitVec.toNat_ofInt]
  omega

theorem wordOf_add (a b : Word) : wordOf ((a.toNat : Int) + b.toNat) = a + b := by
  simpa [carryIn] using wordOf_add_carry a b false

theorem wordOf_sub (a b : Word) : wordOf ((a.toNat : Int) - b.toNat) = a - b := by
  simpa [carryIn] using wordOf_sub_borrow a b false

/-! ## Sums and differences with their flags (R410 to R412) -/

theorem bitOf_toNat_word (v : Word) (k : Nat) : bitOf v.toNat k = v.getLsbD k := (getLsbD_eq_div v k).symm

theorem half_add16_no_carry (a b : Word) :
    (a ^^^ b ^^^ (a + b)).getLsbD 12 = decide (4095 < a.toNat % 4096 + b.toNat % 4096) := by
  simpa [carryIn] using half_add16 a b false

/-- The sum of ADD and its flags in integer arithmetic (R410). -/
theorem add16_eq (a b : Word) (f : Byte) :
    add16 a b f = { val := wordOf (a.toNat + b.toNat), f := add16Flags a b f } := by
  have sum : (a.toNat + b.toNat) % 65536 = (a + b).toNat := (BitVec.toNat_add a b).symm
  simp only [add16, add16Flags, wordOf_add, sum, half_add16_no_carry, bitOf_toNat_word]

/-- The sum of ADC and its flags in integer arithmetic (R411). -/
theorem adc16_eq (a b : Word) (c : Bool) :
    adc16 a b c = { val := wordOf (a.toNat + b.toNat + c.toNat), f := adc16Flags a b c } := by
  simp only [adc16, adc16Flags, wordOf_add_carry, ← toNat_add_carry16, half_add16, overflow_add16, overflows16,
    Bool.decide_or]
  simp only [bit15_eq, eq_zero_iff, bitOf_toNat_word]

/-- The difference of SBC and its flags in integer arithmetic (R412). -/
theorem sbc16_eq (a b : Word) (c : Bool) :
    sbc16 a b c = { val := wordOf ((a.toNat : Int) - b.toNat - c.toNat), f := sbc16Flags a b c } := by
  simp only [sbc16, sbc16Flags, wordOf_sub_borrow, half_sub16, overflow_sub16, overflows16, Bool.decide_or]
  simp only [bit15_eq, eq_zero_iff, bitOf_toNat_word]

/-! ## Results written back (R413 to R420) -/

section
variable (s : State) {o : Out16} {v : Word} {f : Byte} (ho : o = { val := v, f := f })
include ho

/-- A result written back to HL, byte by byte. -/
theorem State.setHL_setF16 :
    (s.setF16 s.hl o.f).setHL o.val =
      { s with h := byteOf (v.toNat / 256), l := byteOf v.toNat, memptr := s.hl + 1#16, f := f, qCur := true } := by
  subst ho
  rw [byteOf_div_eq_hi8, byteOf_eq_lo8]
  rfl

/-- A result written back to XY is what the statement asks of ADD XY. -/
theorem sets_setIndex_setF16 (xy : IndexReg) :
    let t := (s.setF16 (s.index xy) o.f).setIndex xy o.val
    t.index xy = v ∧ (∀ q, q ≠ xy → t.index q = s.index q) ∧
      { t with ix := s.ix, iy := s.iy } = { s with memptr := s.index xy + 1#16, f := f, qCur := true } := by
  subst ho
  exact loads_setIndex s (s.setF16 (s.index xy) f) xy v fun q => by cases q <;> rfl

end

/-- Settles O51: each form writes back the result and flags of `add16_eq`, `adc16_eq` or `sbc16_eq`. -/
theorem wordArithmeticResults : Obligations.WordArithmeticResults := by
  intro s rp xy rpx
  refine ⟨next_congr (s.setHL_setF16 (add16_eq ..)), next_congr (s.setHL_setF16 (adc16_eq ..)),
    next_congr (s.setHL_setF16 (sbc16_eq ..)), ?_⟩
  cases rpx <;> exact ⟨_, rfl, sets_setIndex_setF16 s (add16_eq ..) xy⟩

/-- Settles O52: one write, of the word one higher or lower, to the pair or the index register. -/
theorem wordIncrementAndDecrement : Obligations.WordIncrementAndDecrement := by
  intro s rp xy
  have up := fun v : Word => wordOf_add v 1#16
  have down := fun v : Word => wordOf_sub v 1#16
  have pairs := fun v => loads_setRp s s rp v fun _ => rfl
  have indices := fun v => loads_setIndex s s xy v fun _ => rfl
  exact ⟨⟨_, rfl, up _ ▸ pairs _⟩, ⟨_, rfl, down _ ▸ pairs _⟩,
    ⟨_, rfl, up _ ▸ indices _⟩, ⟨_, rfl, down _ ▸ indices _⟩⟩

end Sys2Proof.Machine
end

section
/-! SUPPORT. The rotates and shifts of registers and of the byte at HL, and the digit rotates, in integer arithmetic
(46_rotate_shift.md R430 to R434, R440, R441, R472, R473). -/

namespace Sys2Proof.Machine

open Claim

/-! ## The operation on a register and on the byte at HL (R440, R441) -/

theorem State.rotReg_eq (s : State) (op : RotOp) (r : Reg8) :
    s.rotReg op r = (s.setReg8 r (rotByte op (s.reg8 r) s.f)).setFQ (rotFlags op (s.reg8 r) s.f) := by
  rw [State.rotReg, rot8_eq]

theorem State.rotAtHl_eq (s : State) (op : RotOp) :
    s.rotAtHl op =
      { stored (readHl s) s.hl (rotByte op (s.peek s.hl) s.f) with f := rotFlags op (s.peek s.hl) s.f, qCur := true } :=
  congrArg Prod.snd (s.rotAt_eq op s.hl)

theorem loads_rotReg (s : State) (op : RotOp) (r : Reg8) :
    (s.rotReg op r).reg8 r = rotByte op (s.reg8 r) s.f ∧ (∀ q, q ≠ r → (s.rotReg op r).reg8 q = s.reg8 q) ∧
      { s.rotReg op r with a := s.a, b := s.b, c := s.c, d := s.d, e := s.e, h := s.h, l := s.l } =
        { s with f := rotFlags op (s.reg8 r) s.f, qCur := true } := by
  rw [State.rotReg_eq]
  exact loads_setReg8_setFQ s r _ _

/-- Settles O54: each operation is one write of a register and F, or one read and store of the byte at HL. -/
theorem rotatesOfRegistersAndHl : Obligations.RotatesOfRegistersAndHl := by
  intro s r
  have register := fun op => loads_rotReg s op r
  have memory := fun op => next_congr (s.rotAtHl_eq op)
  exact ⟨⟨_, rfl, register .rlc⟩, memory .rlc, ⟨_, rfl, register .rrc⟩, memory .rrc, ⟨_, rfl, register .rl⟩, memory .rl,
    ⟨_, rfl, register .rr⟩, memory .rr, ⟨_, rfl, register .sla⟩, memory .sla, ⟨_, rfl, register .sra⟩, memory .sra,
    ⟨_, rfl, register .sll⟩, memory .sll, ⟨_, rfl, register .srl⟩, memory .srl⟩

/-! ## The accumulator rotates (R430 to R433) -/

theorem rotAF_eq_rotAFlags (r f : Byte) (out : Bool) : rotAF r f out = rotAFlags r f out := by
  simp only [rotAF, rotAFlags, bitOf_toNat]

/-- A rotate of A has the result and the bit shifted out of the CB form, with F of its own. -/
theorem State.rotateA_eq (s : State) (op : RotOp) :
    s.rotateA (rotVal op s.a (flagC s.f)) (rotOut op s.a) =
      { s with
        a := rotByte op s.a s.f
        f := rotAFlags (rotByte op s.a s.f) s.f (rotated op s.a.toNat (flagC s.f)).2
        qCur := true } := by
  rw [State.rotateA, rotVal_eq_rotByte, rotOut_eq_rotated op s.a (flagC s.f), rotAF_eq_rotAFlags]

/-! ## The digit rotates (R472, R473) -/

theorem toNat_highDigit (v : Byte) : (highDigit v).toNat = v.toNat / 16 := by
  have := v.isLt
  rw [highDigit, BitVec.extractLsb'_toNat, Nat.shiftRight_eq_div_pow]
  omega

theorem toNat_lowDigit (v : Byte) : (lowDigit v).toNat = v.toNat % 16 := toNat_low_digit v

theorem digits_eq_byteOf (hi lo : BitVec 4) : digits hi lo = byteOf (hi.toNat * 16 + lo.toNat : Nat) := by
  revert hi lo
  decide

/-- The store at HL, then A, MEMPTR and the flags from the new A, C kept. -/
theorem State.digitRotate_eq (s : State) (newM newA : Byte) :
    s.digitRotate newM newA =
      { stored s s.hl newM with
        a := newA, memptr := s.hl + 1#16, f := parityFlags newA false false (flagC s.f), qCur := true } := by
  rw [parityFlags_eq_szpF]
  rfl

/-- Settles O53: the accumulator rotates are `State.rotateA_eq` at four operations; RLD and RRD put four digits together
after the read of (HL). -/
theorem accumulatorRotates : Obligations.AccumulatorRotates := by
  intro s
  have rot := fun op => next_congr (s.rotateA_eq op)
  have nibbles := fun newM newA => next_congr ((readHl s).digitRotate_eq newM newA)
  dsimp only
  simp only [← toNat_highDigit, ← toNat_lowDigit, ← digits_eq_byteOf]
  exact ⟨rot .rlc, rot .rrc, rot .rl, rot .rr, nibbles _ _, nibbles _ _⟩

end Sys2Proof.Machine
end

section
/-! SUPPORT. Bit test, reset and set in integer arithmetic: one bit of a byte put to 0 or 1, and the flags of a tested bit
(47_bit.md R480 to R490). -/

namespace Sys2Proof.Machine

open Claim

/-! ## The bit tested (R480 to R482) -/

/-- The flags of a tested bit in the statement's words: S can be set for bit 7 only. -/
theorem bitF_eq (b : BitVec 3) (v yx f : Byte) :
    bitF b v yx f =
      mkF (decide (b.toNat = 7) && bitOf v.toNat b.toNat) (!bitOf v.toNat b.toNat) (bitOf yx.toNat 5) true
        (bitOf yx.toNat 3) (!bitOf v.toNat b.toNat) false (flagC f) := by
  have seven : b = 7#3 ↔ b.toNat = 7 := BitVec.toNat_inj.symm
  simp only [bitF, bitOf_toNat, seven]

/-- Settles O56: the flags of `bitF_eq` after the operand's read, Y and X from the byte the form names. -/
theorem bitTestResults : Obligations.BitTestResults := by
  intro s b dup r xy d
  dsimp only
  simp only [← toNat_hi8, ← bitF_eq, readXy_eq, addr_eq_ea]
  exact ⟨rfl, rfl, rfl⟩

/-! ## The bit written (R483 to R490) -/

theorem putBit_false : ∀ (b : BitVec 3) (v : Byte), putBit v b false = resBit b v := by decide

theorem putBit_true : ∀ (b : BitVec 3) (v : Byte), putBit v b true = setBit b v := by decide

/-- The copy forms: a register write after the store leaves all else of the store as it is. -/
theorem loads_stored_readXy (s : State) (xy : IndexReg) (d v : Byte) (r : Reg8) :
    let u := stored (readXy s xy d) (addr s xy d) v
    (u.setReg8 r v).reg8 r = v ∧ (∀ q, q ≠ r → (u.setReg8 r v).reg8 q = s.reg8 q) ∧
      { u.setReg8 r v with a := s.a, b := s.b, c := s.c, d := s.d, e := s.e, h := s.h, l := s.l } = u :=
  loads_setReg8 s (stored (readXy s xy d) (addr s xy d) v) r v fun q => by cases q <;> rfl

/-- Settles O57: one byte with one bit put, written to the register, or stored and then copied to it. -/
theorem bitResetAndSetResults : Obligations.BitResetAndSetResults := by
  intro s b r xy d
  have register := fun v => loads_setReg8 s s r v fun _ => rfl
  have copies := fun v => loads_stored_readXy s xy d v r
  dsimp only at copies ⊢
  simp only [putBit_false, putBit_true, readXy_eq, addr_eq_ea] at copies ⊢
  exact ⟨⟨_, rfl, register _⟩, ⟨_, rfl, register _⟩, rfl, rfl, rfl, rfl, ⟨_, rfl, copies _⟩, ⟨_, rfl, copies _⟩⟩

end Sys2Proof.Machine
end

section
/-! SUPPORT. Completion of every instruction (60_exceptions.md R600, R625), and the interrupts: the return from a handler
(48_jump_call_return.md R511, R512), the acceptances (R606 to R615), and the one fault a step can reach (R613). -/

namespace Sys2Proof.Machine

open Claim

/-! ## What is the host's (10_state.md R38, R39, R41, R42) -/

/-- No instruction writes the line, a pending NMI, the pin request, the debug configuration, the parameters, the acknowledge
supply or the Q of the instruction before. -/
theorem controlAfter_host (i : Instr) (s : State) :
    let c := controlAfter i s
    c.intLine = s.intLine ∧ c.nmiPending = s.nmiPending ∧ c.pinResetReq = s.pinResetReq ∧ c.bp = s.bp ∧
      c.bpHook = s.bpHook ∧ c.traceEnabled = s.traceEnabled ∧ c.params = s.params ∧ c.ackInputs = s.ackInputs ∧
      c.ackDraws = s.ackDraws ∧ c.qLast = s.qLast := by
  cases i <;> exact ⟨rfl, rfl, rfl, rfl, rfl, rfl, rfl, rfl, rfl, rfl⟩

/-- Settles O10: every instruction completes, and it or the entry it runs says what becomes of the control state. -/
theorem everyInstructionCompletes : Obligations.EveryInstructionCompletes := by
  intro i s
  obtain ⟨t, e⟩ := exec_completes i s
  obtain ⟨j, k, _⟩ := exists_execFacts e
  have host := controlAfter_host j s
  rw [← k.control] at host
  exact ⟨t, e, host⟩

/-! ## The return from a handler (48_jump_call_return.md R511, R512) -/

theorem State.returnFromInterrupt_eq_popped (s : State) :
    s.returnFromInterrupt = { popped s with pc := wordAt s s.sp, memptr := wordAt s s.sp, iff1 := s.iff2 } := by
  rw [State.returnFromInterrupt, pop16_eq_popped]
  rfl

/-- The final byte of RETN in its `dup` field (30_encoding.md R152). -/
theorem opXYZ_retn : ∀ dup : BitVec 3, opXYZ 1#2 dup 5#3 = BitVec.ofNat 8 (0x45 + 8 * dup.toNat) := by decide

theorem wf_retn : ∀ dup : BitVec 3, (Instr.retn dup).wf = decide (dup.toNat ≠ 1) := by decide

/-- Settles O14: both run the one return, whose pop is the stack's own rule. -/
theorem returnFromInterruptRestoresEnable : Obligations.ReturnFromInterruptRestoresEnable := by
  intro s dup
  dsimp only
  rw [← State.returnFromInterrupt_eq_popped, ← opXYZ_retn]
  exact ⟨rfl, rfl, rfl, rfl, wf_retn dup⟩

/-! ## Accepting an NMI (60_exceptions.md R606 to R611) -/

/-- Settles O12: the NMI is first in priority, and its acceptance reads nothing of the request that it clears. -/
theorem nmiAcceptance : Obligations.NmiAcceptance := by
  intro s hn
  rw [s.sampleInterrupts_of_nmi hn, acceptNMI_eq]
  rfl

/-! ## Accepting the maskable line, mode by mode (R612 to R615) -/

theorem State.drawAck_eq_afterAck (s : State) : s.drawAck = (ackByte s, afterAck s) := s.drawAck_eq

theorem State.im_enterInterrupt (s : State) (iff2 : Bool) : (s.enterInterrupt iff2).im = s.im := by
  rw [State.enterInterrupt_eq]

theorem State.i_enterInterrupt (s : State) (iff2 : Bool) : (s.enterInterrupt iff2).i = s.i := by
  rw [State.enterInterrupt_eq]

/-- The entry leaves PC at the return address that it pushes. -/
theorem State.enterInterrupt_eq_entered (s : State) (iff2 : Bool) :
    s.enterInterrupt iff2 = { entered s iff2 with pc := returnAddress s } := by
  rw [entered, ← push16_eq_pushed, State.enterInterrupt_eq, State.push16_eq]
  rfl

theorem State.vectorTo_enterInterrupt (s : State) (iff2 : Bool) (target : Word) :
    (s.enterInterrupt iff2).vectorTo target = { entered s iff2 with pc := target, memptr := target } := by
  rw [State.enterInterrupt_eq_entered]
  rfl

/-- Control at the word that memory holds at `a`, read after the push (R615). -/
theorem State.vectorTo_memRead16_enterInterrupt (s : State) (iff2 : Bool) (a : Word) :
    let read := (s.enterInterrupt iff2).memRead16 a
    let u := entered s iff2
    read.2.vectorTo read.1 = { loaded (loaded u a) (a + 1#16) with pc := wordAt u a, memptr := wordAt u a } := by
  rw [memRead16_eq_loaded, State.enterInterrupt_eq_entered]
  rfl

section
variable {s : State}

theorem State.acceptINT_of_im0_rst (hm : s.im = .im0) (hr : ackByte s &&& 0xC7#8 = 0xC7#8) :
    s.acceptINT = .next { entered (afterAck s) false with
      pc := (ackByte s &&& 0x38#8).setWidth 16, memptr := (ackByte s &&& 0x38#8).setWidth 16 } := by
  have mode : (afterAck s).im = .im0 := hm
  simp only [State.acceptINT, drawAck_eq_afterAck, im_enterInterrupt, mode, if_pos hr, vectorTo_enterInterrupt]

theorem State.acceptINT_of_im0_not_rst (hm : s.im = .im0) (hr : ackByte s &&& 0xC7#8 ≠ 0xC7#8) :
    s.acceptINT = .fault (.im0NotRST (ackByte s)) := by
  have mode : (afterAck s).im = .im0 := hm
  simp only [State.acceptINT, drawAck_eq_afterAck, im_enterInterrupt, mode, if_neg hr]

theorem State.acceptINT_of_im1 (hm : s.im = .im1) :
    s.acceptINT = .next { entered (afterAck s) false with pc := Config.im1Vector, memptr := Config.im1Vector } := by
  have mode : (afterAck s).im = .im1 := hm
  simp only [State.acceptINT, drawAck_eq_afterAck, im_enterInterrupt, mode, vectorTo_enterInterrupt]

theorem State.acceptINT_of_im2 (hm : s.im = .im2) :
    let u := entered (afterAck s) false
    let entry := pair s.i (ackByte s)
    s.acceptINT = .next { loaded (loaded u entry) (entry + 1#16) with pc := wordAt u entry, memptr := wordAt u entry } := by
  have mode : (afterAck s).im = .im2 := hm
  have base : (afterAck s).i = s.i := rfl
  simp only [State.acceptINT, drawAck_eq_afterAck, im_enterInterrupt, i_enterInterrupt, mode, base,
    vectorTo_memRead16_enterInterrupt]

end

/-- Settles O13: sampling goes to the acceptance, which the mode and in IM 0 the byte decide; else it changes nothing. -/
theorem maskableAcceptanceByMode : Obligations.MaskableAcceptanceByMode := by
  constructor
  · intro s hn h1 hd hl
    have accepted : s.sampleInterrupts = s.acceptINT := s.sampleInterrupts_of_int (by simp [hn]) (by simp [h1, hd, hl])
    have rst : wordOf (ackByte s &&& 0x38#8).toNat = (ackByte s &&& 0x38#8).setWidth 16 := by simp [wordOf]
    dsimp only
    rw [accepted, rst, wordOf_mul_add]
    exact ⟨State.acceptINT_of_im0_rst, State.acceptINT_of_im0_not_rst, State.acceptINT_of_im1, State.acceptINT_of_im2⟩
  · intro s hn hno
    refine s.sampleInterrupts_of_none (by simp [hn]) fun hi => ?_
    simp only [Bool.and_eq_true, Bool.not_eq_true'] at hi
    obtain ⟨⟨h1, hd⟩, hl⟩ := hi
    simp [h1, hd, hl] at hno

/-! ## The one fault (R601, R613) -/

/-- Sampling accepts the line in IM 0 and draws a byte that is no RST opcode. -/
structure State.DrawsNoRst (s : State) : Prop where
  nmiPending : s.nmiPending = false
  iff1 : s.iff1 = true
  pendingEI : s.pendingEI = false
  intLine : s.intLine = true
  im : s.im = .im0
  ack : ackByte s &&& 0xC7#8 ≠ 0xC7#8

/-- A maskable acceptance answers a next state but for an IM 0 byte that is no RST opcode. -/
theorem State.acceptINT_next_or_no_rst (s : State) :
    (∃ t, s.acceptINT = .next t) ∨ (s.im = .im0 ∧ ackByte s &&& 0xC7#8 ≠ 0xC7#8) := by
  cases hm : s.im with
  | im0 =>
    by_cases hr : ackByte s &&& 0xC7#8 = 0xC7#8
    · exact .inl ⟨_, State.acceptINT_of_im0_rst hm hr⟩
    · exact .inr ⟨rfl, hr⟩
  | im1 => exact .inl ⟨_, State.acceptINT_of_im1 hm⟩
  | im2 => exact .inl ⟨_, State.acceptINT_of_im2 hm⟩

theorem State.sampleInterrupts_next_or_fault (s : State) :
    (∃ t, s.sampleInterrupts = .next t) ∨
      (s.DrawsNoRst ∧ s.sampleInterrupts = .fault (.im0NotRST (ackByte s))) := by
  obtain ⟨_, e⟩ | ⟨hn, h1, hd, hl, e⟩ | ⟨_, _, e⟩ := s.sampleInterrupts_cases
  · exact .inl ⟨_, e⟩
  · rw [e]
    refine s.acceptINT_next_or_no_rst.imp_right fun ⟨hm, hr⟩ => ?_
    exact ⟨⟨hn, h1, hd, hl, hm, hr⟩, State.acceptINT_of_im0_not_rst hm hr⟩
  · exact .inl ⟨_, e⟩

/-- The boundary's own writes, Q and the trace event, decide nothing of the sampling. -/
theorem State.endStep_next_or_fault (s : State) :
    (∃ t, s.endStep = .next t) ∨
      (s.pfx = .noPfx ∧ s.DrawsNoRst ∧ s.endStep = .fault (.im0NotRST (ackByte s))) := by
  by_cases hp : s.pfx = .noPfx
  · rw [s.endStep_of_boundary hp]
    refine s.boundary.sampleInterrupts_next_or_fault.imp_right fun ⟨h, e⟩ => ?_
    rw [State.boundary_eq] at h e ⊢
    exact ⟨hp, ⟨h.nmiPending, h.iff1, h.pendingEI, h.intLine, h.im, h.ack⟩, e⟩
  · exact .inl ⟨s, s.endStep_of_pending hp⟩

/-- Settles O11: the instruction completes, so only the end of the step can fault; what decides there of the host's side is
as the step found it. -/
theorem stepFaultsOnlyAtAnIm0Acknowledge : Obligations.StepFaultsOnlyAtAnIm0Acknowledge := by
  intro s
  obtain ⟨u, eu, intLine, nmiPending, _, _, _, _, _, ackInputs, ackDraws, _⟩ :=
    everyInstructionCompletes s.fetchInstr.1 s.fetchInstr.2
  obtain ⟨pc, hist, fetch⟩ := s.fetchInstr_frame
  rw [fetch] at intLine nmiPending ackInputs ackDraws
  have ack : ackByte u = ackByte s := by rw [ackByte, ackInputs, ackDraws, ackByte]
  have ends : step s = u.endStep := by rw [step, eu]
  rw [ends]
  refine u.endStep_next_or_fault.imp_right fun ⟨hp, h, e⟩ => ?_
  exact ⟨ack ▸ e, ack ▸ h.ack, intLine.symm.trans h.intLine, nmiPending.symm.trans h.nmiPending,
    u, eu, hp, h.im, h.iff1, h.pendingEI, h.intLine, h.nmiPending, ack⟩

end Sys2Proof.Machine
end
